-- ==== Sys2Proof/Config.lean ====
section
/-! DEFINITION. What a build of UGUU4-CORE fixes (spec/00_scope.md R5, R6) and the one free value
(spec/93_implementation_defined.md U9). -/

namespace Sys2Proof

/-- By how much this build's `CPW` exceeds 2, with no body: it stands for the builder's choice of the
width (R6; log 1). -/
opaque Config.cpwExtra : Nat

/-- The parameter `CPW`, the width of a symbol value on a port: any number not below 2 (R6; DEDUCED,
log 1). -/
def Config.cpw : Nat := Config.cpwExtra + 2

/-- The `CPW` for which the formats and spec/opcode_table.json are drawn, the default of R6. It is used
for the words of that table alone (log 10). -/
def Config.tableCpw : Nat := 21

/-- A table `SYM` of symbols of `w` bits (R5, R100): entry `c` is the symbol paired with code `c`. One
object from which both look-up directions are computed (R63). -/
structure SymTable (w : Nat) where
  s0 : BitVec w
  s1 : BitVec w
  s2 : BitVec w
  s3 : BitVec w
deriving DecidableEq, Repr

/-- An arbitrary arrangement of the `CP` values, with no body: it stands for the builder's choice of
the four symbols (R5; log 2). -/
opaque Config.symPerm : Equiv.Perm (BitVec Config.cpw)

/-- The table of this build: four values of which nothing is known but that they are pairwise
distinct (R5, R100; DEDUCED, log 2). -/
def Config.sym : SymTable Config.cpw where
  s0 := Config.symPerm 0
  s1 := Config.symPerm 1
  s2 := Config.symPerm 2
  s3 := Config.symPerm 3

/-- FREE VALUE: the `code` field of `S2C_OUT` on the n-th miss, any 2-bit value (R104, U9; log 4). -/
opaque Config.missCode : Nat → BitVec 2

/-- What `enc_byte` and `dec_acc` hold after reset. DESIGN CHOICE (log 3): R41 gives no value. -/
def Config.dataReset : BitVec 8 := 0

end Sys2Proof
end

