-- ==== Sys2Proof/Word.lean ====
section
/-! DEFINITION. The word types of the ports and registers (spec/00_scope.md R7, R10;
spec/30_encoding.md R74, R75). All values are unsigned. -/

namespace Sys2Proof

/-- A byte, 8 bits (R7). -/
abbrev Byte := BitVec 8

/-- A 2-bit code, also the value of a group and of a cursor (R7). -/
abbrev Code := BitVec 2

/-- A symbol value on a port, any of the `2^CPW` values (R6). -/
abbrev CP := BitVec Config.cpw

/-- The `kind` field of an event word (R76). -/
abbrev Kind := BitVec 3

/-- `ENC_EW`, the encoder's input event word: kind 10:8, data 7:0 (R74). -/
abbrev EncWord := BitVec 11

/-- `DEC_EW`, the decoder's input event word, `{kind, cp}` (R75). Where each field lies on the `CPW + 3`
wires is in Decode.lean. -/
structure DecWord where
  kind : Kind
  cp : CP
deriving DecidableEq, Repr

/-- The wires of `DEC_EW`, `CPW + 3` of them (R75). -/
abbrev DecBits := BitVec (3 + Config.cpw)

end Sys2Proof
end

