-- ==== Sys2Proof/Syntax.lean ====
section
/-! DEFINITION. The operations of the block, one constructor per row of spec/opcode_table.json, and
the words of its ports (spec/30_encoding.md R86). -/

namespace Sys2Proof

/-- The twelve operations of R86. Words with `kind` not 0 carry no operand: their payload is ignored
(R77; log 15). -/
inductive Instr where
  /-- `ENC.PUT b`, R111. -/
  | encPut (b : Byte)
  /-- `ENC.END`, R113. -/
  | encEnd
  /-- `ENC.IOFAIL`, R114. -/
  | encIofail
  /-- `ENC.START`, R110. -/
  | encStart
  /-- `ENC.EMIT`, R112: the symbol sink takes one `ENC_OW` word. -/
  | encEmit
  /-- `DEC.SYM s`, R131. -/
  | decSym (s : CP)
  /-- `DEC.END`, R132. -/
  | decEnd
  /-- `DEC.IOFAIL`, R134. -/
  | decIofail
  /-- `DEC.BAD`, R133. -/
  | decBad
  /-- `DEC.START`, R130. -/
  | decStart
  /-- `LUT.C2S c`, R101. -/
  | lutC2s (c : Code)
  /-- `LUT.S2C s`, R102. -/
  | lutS2c (s : CP)
deriving DecidableEq, Repr

/-- The places at which the host meets the block (R50, R59, R104). -/
inductive Port where
  /-- The encoder's input port, `ENC_EW`. -/
  | encIn
  /-- The encoder's output port, `ENC_OW`. -/
  | encOut
  /-- The decoder's input port, `DEC_EW`. -/
  | decIn
  /-- The code-to-symbol look-up port, `C2S_IN`. -/
  | c2s
  /-- The symbol-to-code look-up port, `S2C_IN`. -/
  | s2c
deriving DecidableEq, Repr

/-- What the host presents at a port: a word, or for `ENC_OW` the sink taking one (R86). -/
inductive PortWord where
  | encEw (w : EncWord)
  | decEw (w : DecWord)
  | symbolTaken
  | c2sIn (c : Code)
  | s2cIn (s : CP)
deriving DecidableEq, Repr

end Sys2Proof
end

