-- ==== Sys2Proof/Machine/State.lean ====
section
/-! DEFINITION. The state of the block (spec/10_state.md R20 to R33), the host's acts, why a step can
stop, and the state after reset (R41). -/

namespace Sys2Proof.Machine

/-- A unit's pass status (R21, R27); the codes are in Flags.lean. -/
inductive Status where
  | idle
  | run
  | done
  | fail
deriving DecidableEq, Repr

/-- The error kinds of spec/60_exceptions.md R170; the codes are in Flags.lean. -/
inductive ErrKind where
  | none
  | ioFailure
  | invalidSymbol
  | malformedTextEncoding
  | truncatedStream
deriving DecidableEq, Repr

/-- The two units that hold state (R9, R187). -/
inductive CodecUnit where
  | enc
  | dec
deriving DecidableEq, Repr

/-- What the host can do at the block's ports (R9, R33, R104, R200, R212; log 5). -/
inductive HostAct where
  /-- The word offered on the encoder's input port becomes this one, or is withdrawn. -/
  | offerEnc (w : Option EncWord)
  /-- The word offered on the decoder's input port becomes this one, or is withdrawn. -/
  | offerDec (w : Option DecWord)
  /-- The encoder's input port has its turn: the offered word is accepted if it can be. -/
  | serveEnc
  /-- The decoder's input port has its turn: the offered word is accepted if it can be. -/
  | serveDec
  /-- The symbol sink takes a word if the encoder has one to give. -/
  | takeSymbol
  /-- The byte sink becomes ready to take a byte, or not ready. -/
  | byteSink (ready : Bool)
  /-- A code on the code-to-symbol look-up port. -/
  | lookC2s (c : Code)
  /-- A symbol value on the symbol-to-code look-up port. -/
  | lookS2c (s : CP)
  /-- `RESET`: `rst` is asserted (R200). -/
  | reset
  /-- A pause: no event happens (R64). -/
  | pause
deriving DecidableEq, Repr

/-- The nine state elements of the block (R20), the outputs made so far (observations, R33; log 8),
the inputs from the environment (R33; log 5) and the free value's counter (log 4). -/
structure State where
  /-- `enc_st` (R21). -/
  encSt : Status
  /-- `enc_err` (R22). -/
  encErr : ErrKind
  /-- `enc_cur` (R23). -/
  encCur : Code
  /-- `enc_vld` (R24). -/
  encVld : Bool
  /-- `enc_byte` (R25). -/
  encByte : Byte
  /-- `dec_st` (R27). -/
  decSt : Status
  /-- `dec_err` (R28). -/
  decErr : ErrKind
  /-- `dec_cur` (R29). -/
  decCur : Code
  /-- `dec_acc` (R30). -/
  decAcc : Byte
  /-- The stream `EncOut`, oldest first (R50). -/
  encOut : List CP
  /-- The stream `DecOut`, oldest first (R50). -/
  decOut : List Byte
  /-- The answers on `C2S_OUT`, oldest first (R104). -/
  c2sOut : List CP
  /-- The answers on `S2C_OUT`, oldest first: bit 2 `hit`, bits 1:0 `code` (R104). -/
  s2cOut : List (BitVec 3)
  /-- The model's own counter for the free value of `S2C_OUT.code` (log 4). -/
  freeTick : Nat
  /-- The word offered on `ENC_EW`, if any (R74). -/
  encPort : Option EncWord
  /-- The word offered on `DEC_EW`, if any (R75). -/
  decPort : Option DecWord
  /-- Whether the byte sink takes a byte now (R131, R212; log 13). -/
  byteSinkReady : Bool
  /-- The host's acts still to come, the next first (log 5). -/
  host : List HostAct
deriving DecidableEq, Repr

/-- Why the machine stops with a fault: never. No event halts the block (spec/60_exceptions.md R174,
R179): an error ends a pass and leaves an ordinary readable state, so there is no constructor. -/
inductive Fault where
deriving DecidableEq, Repr

/-- Why a step is refused. -/
inductive Refusal where
  /-- Raised by `exec` alone, for an operation that has no meaning yet; safe. No arm uses it now. -/
  | notModelled (mnemonic : String)
  /-- Raised by `step` when the encoder's port is served a word of this reserved kind, which has no
  step (R80; log 7); safe. -/
  | reservedEncKind (k : Kind)
  /-- Raised by `step` when the decoder's port is served a word of this reserved kind, which has no
  step (R80; log 7); safe. -/
  | reservedDecKind (k : Kind)
deriving DecidableEq, Repr

/-- The state right after reset (R41, R200): both units idle, nothing emitted, nothing offered.
`enc_byte`, `dec_acc` (log 3), `freeTick` (log 4) and `byteSinkReady` (log 13) are DESIGN CHOICEs. -/
def State.reset : State where
  encSt := .idle
  encErr := .none
  encCur := 0
  encVld := false
  encByte := Config.dataReset
  decSt := .idle
  decErr := .none
  decCur := 0
  decAcc := Config.dataReset
  encOut := []
  decOut := []
  c2sOut := []
  s2cOut := []
  freeTick := 0
  encPort := none
  decPort := none
  byteSinkReady := true
  host := []

end Sys2Proof.Machine
end

