-- ==== Sys2Proof/Machine/Operands.lean ====
section
/-! DEFINITION. The operands of the data path: the two look-up directions (spec/40_symbolmap.md),
group extraction and byte assembly (spec/30_encoding.md R71, R72), and the look-up port's word. -/

namespace Sys2Proof.Machine

/-- `LUT.C2S` over a table: the symbol paired with a code (R101). -/
def codeToSymbol {w : Nat} (t : SymTable w) (c : Code) : BitVec w :=
  match c.toNat with
  | 0 => t.s0
  | 1 => t.s1
  | 2 => t.s2
  | _ => t.s3

/-- `LUT.S2C` over a table: the code of a symbol, none for `Invalid` (R102). Comparison is exact
equality of the values' bits. -/
def symbolToCode {w : Nat} (t : SymTable w) (s : BitVec w) : Option Code :=
  if s = t.s0 then some 0
  else if s = t.s1 then some 1
  else if s = t.s2 then some 2
  else if s = t.s3 then some 3
  else none

/-- `group(b, k) = b[7-2k : 6-2k]`, group 0 the most significant pair (R71). -/
def group (b : Byte) (k : Code) : Code := b.extractLsb' (6 - 2 * k.toNat) 2

/-- A code shifted left to the place of unit `k` of a byte: by 6, 4, 2 or 0 (R72). -/
def place (c k : Code) : Byte := c.setWidth 8 <<< (6 - 2 * k.toNat)

/-- `pack(c0, c1, c2, c3)`, the first code in bits 7:6 (R72). -/
def pack (c0 c1 c2 c3 : Code) : Byte := place c0 0 ||| place c1 1 ||| place c2 2 ||| place c3 3

/-- The accumulator after a code has been put at unit `k` of the run: unit 0 overwrites all 8 bits, the
others OR in place (R131). -/
def accumulate (acc : Byte) (k c : Code) : Byte :=
  if k = 0 then place c 0 else acc ||| place c k

/-- The word `S2C_OUT`: bit 2 `hit`, bits 1:0 the code, which on a miss is the given free value
(R104, U9; log 4). -/
def s2cWord (free : Code) : Option Code → BitVec 3
  | some c => 1#1 ++ c
  | none => 0#1 ++ free

end Sys2Proof.Machine
end

