-- ==== Sys2Proof/Machine/Enabled.lean ====
section
/-! DEFINITION. When an operation can happen: the `Enabled when` line of every rule of
spec/41_encoder.md and spec/42_decoder.md (their tables R115 and R135). -/

namespace Sys2Proof.Machine

/-- A symbol of the alphabet at cursor 3 hands a byte to the byte sink in the same step (R131). -/
def handsByte (sym : CP) (s : State) : Bool :=
  s.decCur == 3 && (symbolToCode Config.sym sym).isSome

/-- The enabling conditions (R110 to R114, R130 to R134); look-ups work at any time in any status
(R104). `DEC.SYM` also waits for the byte sink where it hands over a byte (R131, R212; log 13). -/
def enabled : Instr → State → Bool
  | .encPut _, s => s.encSt == .run && !s.encVld
  | .encEnd, s => s.encSt == .run && !s.encVld
  | .encIofail, s => s.encSt == .run
  | .encStart, s => s.encSt != .run
  | .encEmit, s => s.encSt == .run && s.encVld
  | .decSym sym, s => s.decSt == .run && (!handsByte sym s || s.byteSinkReady)
  | .decEnd, s => s.decSt == .run
  | .decIofail, s => s.decSt == .run
  | .decBad, s => s.decSt == .run
  | .decStart, s => s.decSt != .run
  | .lutC2s _, _ => true
  | .lutS2c _, _ => true

end Sys2Proof.Machine
end

