-- ==== Sys2Proof/Machine/Flags.lean ====
section
/-! DEFINITION. The codes of status and error, the two status words, the four level outputs and the
result of a pass (spec/10_state.md R34 to R36; spec/60_exceptions.md R170; spec/43_pass_semantics.md
R151). All are pure functions of the state: sampling them has no effect. -/

namespace Sys2Proof.Machine

/-- IDLE 0, RUN 1, DONE 2, FAIL 3 (R21). -/
def Status.code : Status → BitVec 2
  | .idle => 0
  | .run => 1
  | .done => 2
  | .fail => 3

/-- The error codes of R170. -/
def ErrKind.code : ErrKind → BitVec 3
  | .none => 0
  | .ioFailure => 1
  | .invalidSymbol => 2
  | .malformedTextEncoding => 3
  | .truncatedStream => 4

/-- `ENC_STATUS`: `vld` 7, `cur` 6:5, `err` 4:2, `st` 1:0 (R34). -/
def State.encStatus (s : State) : BitVec 8 :=
  BitVec.ofBool s.encVld ++ s.encCur ++ s.encErr.code ++ s.encSt.code

/-- `DEC_STATUS`: 0 in bit 7, `cur` 6:5, `err` 4:2, `st` 1:0 (R35). -/
def State.decStatus (s : State) : BitVec 8 :=
  0#1 ++ s.decCur ++ s.decErr.code ++ s.decSt.code

/-- The level output `enc_done` (R36). -/
def State.encDone (s : State) : Bool := s.encSt == .done

/-- The level output `enc_fail` (R36). -/
def State.encFail (s : State) : Bool := s.encSt == .fail

/-- The level output `dec_done` (R36). -/
def State.decDone (s : State) : Bool := s.decSt == .done

/-- The level output `dec_fail` (R36). -/
def State.decFail (s : State) : Bool := s.decSt == .fail

/-- The result of a pass, the source's `Ok(())` or `Err(e)` (R151). -/
inductive PassResult where
  | ok
  | err (k : ErrKind)
deriving DecidableEq, Repr

/-- What a unit's status and error say of its last pass; none while there is no result (R151). -/
def passResult : Status → ErrKind → Option PassResult
  | .done, _ => some .ok
  | .fail, e => some (.err e)
  | .idle, _ | .run, _ => none

/-- The result of the encoder's last pass (R151). -/
def State.encResult (s : State) : Option PassResult := passResult s.encSt s.encErr

/-- The result of the decoder's last pass (R151). -/
def State.decResult (s : State) : Option PassResult := passResult s.decSt s.decErr

end Sys2Proof.Machine
end

