-- ==== Sys2Proof/Machine/Ops.lean ====
section
/-! DEFINITION. The named operations the meanings are made of: the primitives `require`, `put` and
`raise` of spec/00_scope.md R11, opening a pass, finishing one, and reset. -/

namespace Sys2Proof.Machine

/-- `require` (R11): a transfer that is not accepted changes nothing and its party waits (R8, R57);
that the answer is then a next state is a DESIGN CHOICE (log 6). -/
def accept (enabled : Bool) (effect s : State) : Host.Outcome State Fault Refusal :=
  .next (if enabled then effect else s)

/-- `EncOut.put(s)`: one symbol at the end of the encoder's output stream (R11, R51). -/
def State.putSymbol (s : State) (x : CP) : State := { s with encOut := s.encOut ++ [x] }

/-- `DecOut.put(b)`: one byte at the end of the decoder's output stream (R11, R51). -/
def State.putByte (s : State) (b : Byte) : State := { s with decOut := s.decOut ++ [b] }

/-- One answer on `C2S_OUT` (R104). -/
def State.putC2s (s : State) (x : CP) : State := { s with c2sOut := s.c2sOut ++ [x] }

/-- One answer on `S2C_OUT` (R104); a miss takes the next free value (U9; log 4). -/
def State.putS2c (s : State) (r : Option Code) : State :=
  { s with
    s2cOut := s.s2cOut ++ [s2cWord (Config.missCode s.freeTick) r]
    freeTick := if r.isSome then s.freeTick else s.freeTick + 1 }

/-- `raise K` by a unit, the one way a pass fails: `st <- FAIL`, `err <- K`, and nothing else
(R11, spec/60_exceptions.md R179). -/
def State.raise (s : State) (u : CodecUnit) (k : ErrKind) : State :=
  match u with
  | .enc => { s with encSt := .fail, encErr := k }
  | .dec => { s with decSt := .fail, decErr := k }

/-- A unit's `START`, the only way out of FAIL and DONE but reset (R182): a new pass from cursor 0
with no error (R110, R130). The data register is not written. -/
def State.openPass (s : State) (u : CodecUnit) : State :=
  match u with
  | .enc => { s with encSt := .run, encErr := .none, encCur := 0, encVld := false }
  | .dec => { s with decSt := .run, decErr := .none, decCur := 0 }

/-- A unit's pass ends with success (R113, R132). -/
def State.finishPass (s : State) (u : CodecUnit) : State :=
  match u with
  | .enc => { s with encSt := .done }
  | .dec => { s with decSt := .done }

/-- `RESET`: every state element of both units at its reset value, nothing emitted, the streams and
the environment untouched (R200, R201; log 9). The data registers take the model's reset value
(DESIGN CHOICE, log 3). -/
def State.resetBlock (s : State) : State :=
  { s with
    encSt := .idle, encErr := .none, encCur := 0, encVld := false, encByte := Config.dataReset
    decSt := .idle, decErr := .none, decCur := 0, decAcc := Config.dataReset }

end Sys2Proof.Machine
end

