-- ==== Sys2Proof/Machine/Decoder.lean ====
section
/-! DEFINITION. The five operations of the decoder unit (spec/42_decoder.md R130 to R134). -/

namespace Sys2Proof.Machine

/-- A code is taken at unit `dec_cur` of the run: at cursor 3 the byte goes out and `dec_acc` is not
written, before that it is accumulated; the cursor advances modulo 4 (R131). -/
def State.takeCode (s : State) (c : Code) : State :=
  if s.decCur = 3 then { s.putByte (s.decAcc ||| place c 3) with decCur := 0 }
  else { s with decAcc := accumulate s.decAcc s.decCur c, decCur := s.decCur + 1 }

/-- The step of `DEC.SYM`: the code of the symbol is taken, or InvalidSymbol is raised (R131). -/
def State.takeSymbol (s : State) (sym : CP) : State :=
  match symbolToCode Config.sym sym with
  | none => s.raise .dec .invalidSymbol
  | some c => s.takeCode c

/-- `DEC.SYM s`: take the next input symbol (R131). -/
def execDecSym (sym : CP) (s : State) : Host.Outcome State Fault Refusal :=
  accept (enabled (.decSym sym) s) (s.takeSymbol sym) s

/-- `DEC.END`: finish the pass, with TruncatedStream if a run is unfinished (R132). -/
def execDecEnd (s : State) : Host.Outcome State Fault Refusal :=
  accept (enabled .decEnd s)
    (if s.decCur = 0 then s.finishPass .dec else s.raise .dec .truncatedStream) s

/-- `DEC.IOFAIL`: the host reports a failed read or write (R134). -/
def execDecIofail (s : State) : Host.Outcome State Fault Refusal :=
  accept (enabled .decIofail s) (s.raise .dec .ioFailure) s

/-- `DEC.BAD`: the host's text reader met bytes that form no character (R133). -/
def execDecBad (s : State) : Host.Outcome State Fault Refusal :=
  accept (enabled .decBad s) (s.raise .dec .malformedTextEncoding) s

/-- `DEC.START`: begin a decode pass (R130). -/
def execDecStart (s : State) : Host.Outcome State Fault Refusal :=
  accept (enabled .decStart s) (s.openPass .dec) s

end Sys2Proof.Machine
end

