-- ==== Sys2Proof/Machine/Encoder.lean ====
section
/-! DEFINITION. The five operations of the encoder unit (spec/41_encoder.md R110 to R114). -/

namespace Sys2Proof.Machine

/-- `ENC.PUT b`: take the next input byte (R111). -/
def execEncPut (b : Byte) (s : State) : Host.Outcome State Fault Refusal :=
  accept (enabled (.encPut b) s) { s with encByte := b, encVld := true } s

/-- `ENC.END`: finish the pass with success; nothing is emitted (R113). -/
def execEncEnd (s : State) : Host.Outcome State Fault Refusal :=
  accept (enabled .encEnd s) (s.finishPass .enc) s

/-- `ENC.IOFAIL`: the host reports a failed read or write (R114). -/
def execEncIofail (s : State) : Host.Outcome State Fault Refusal :=
  accept (enabled .encIofail s) (s.raise .enc .ioFailure) s

/-- `ENC.START`: begin an encode pass (R110). -/
def execEncStart (s : State) : Host.Outcome State Fault Refusal :=
  accept (enabled .encStart s) (s.openPass .enc) s

/-- The step of `ENC.EMIT`: the symbol of group `enc_cur` goes out, the cursor advances modulo 4, and
after group 3 the byte is no longer held (R112). -/
def State.emit (s : State) : State :=
  { s.putSymbol (codeToSymbol Config.sym (group s.encByte s.encCur)) with
    encCur := s.encCur + 1
    encVld := if s.encCur = 3 then false else s.encVld }

/-- `ENC.EMIT`: the symbol sink takes one word (R112). -/
def execEncEmit (s : State) : Host.Outcome State Fault Refusal :=
  accept (enabled .encEmit s) s.emit s

end Sys2Proof.Machine
end

