-- ==== Sys2Proof/Machine/Lut.lean ====
section
/-! DEFINITION. The two look-ups on their ports (spec/40_symbolmap.md R101, R102, R104): no event of a
unit and no effect on either unit's state. -/

namespace Sys2Proof.Machine

/-- `LUT.C2S c`: the table's symbol for a code (R101, R104). -/
def execLutC2s (c : Code) (s : State) : Host.Outcome State Fault Refusal :=
  accept (enabled (.lutC2s c) s) (s.putC2s (codeToSymbol Config.sym c)) s

/-- `LUT.S2C x`: the code of a symbol value, or a miss (R102, R104). -/
def execLutS2c (x : CP) (s : State) : Host.Outcome State Fault Refusal :=
  accept (enabled (.lutS2c x) s) (s.putS2c (symbolToCode Config.sym x)) s

end Sys2Proof.Machine
end

