-- ==== Sys2Proof/Machine/Dispatch.lean ====
section
/-! DEFINITION. Which meaning belongs to which operation (spec/30_encoding.md R86). -/

namespace Sys2Proof.Machine

def exec (i : Instr) (s : State) : Host.Outcome State Fault Refusal :=
  match i with
  | .encPut b => Sys2Proof.Machine.execEncPut b s
  | .encEnd => Sys2Proof.Machine.execEncEnd s
  | .encIofail => Sys2Proof.Machine.execEncIofail s
  | .encStart => Sys2Proof.Machine.execEncStart s
  | .encEmit => Sys2Proof.Machine.execEncEmit s
  | .decSym sym => Sys2Proof.Machine.execDecSym sym s
  | .decEnd => Sys2Proof.Machine.execDecEnd s
  | .decIofail => Sys2Proof.Machine.execDecIofail s
  | .decBad => Sys2Proof.Machine.execDecBad s
  | .decStart => Sys2Proof.Machine.execDecStart s
  | .lutC2s c => Sys2Proof.Machine.execLutC2s c s
  | .lutS2c x => Sys2Proof.Machine.execLutS2c x s

end Sys2Proof.Machine
end

