-- ==== Sys2Proof/WellFormed.lean ====
section
/-! DEFINITION. Which tables a build may have and which port words select an operation. An `Instr`
needs no check of its own: its operands have the widths of the ports in their types. -/

namespace Sys2Proof

/-- A build whose four symbols are not pairwise distinct is refused (spec/70_reset_and_hazards.md
R203; R5, R100). -/
abbrev SymTable.WellFormed {w : Nat} (t : SymTable w) : Prop :=
  t.s0 ≠ t.s1 ∧ t.s0 ≠ t.s2 ∧ t.s0 ≠ t.s3 ∧ t.s1 ≠ t.s2 ∧ t.s1 ≠ t.s3 ∧ t.s2 ≠ t.s3

/-- The reserved `kind` values of `ENC_EW` are 3, 5, 6, 7 (spec/30_encoding.md R80). -/
abbrev EncKindReserved (k : Kind) : Prop := k = 3 ∨ k = 5 ∨ k = 6 ∨ k = 7

/-- The reserved `kind` values of `DEC_EW` are 5, 6, 7 (R80). -/
abbrev DecKindReserved (k : Kind) : Prop := k = 5 ∨ k = 6 ∨ k = 7

/-- A word selects an operation when its `kind` (R74, R75) is not reserved;
the other ports have no reserved word (R82, R86). -/
def PortWord.wellFormed : PortWord → Bool
  | .encEw w => !decide (EncKindReserved (w.extractLsb' 8 3))
  | .decEw w => !decide (DecKindReserved w.kind)
  | .symbolTaken | .c2sIn _ | .s2cIn _ => true

end Sys2Proof
end

