-- ==== Sys2Proof/Decode.lean ====
section
/-! DEFINITION. Decoding the words of the five ports and encoding the operations
(spec/30_encoding.md R74 to R77, R80, R83, R86; spec/40_symbolmap.md R104). -/

namespace Sys2Proof

/-- Why a word selects no operation: its `kind` is reserved on that port (R80). -/
inductive DecodeError where
  | reservedEncKind (k : Kind)
  | reservedDecKind (k : Kind)
deriving DecidableEq, Repr

/-- Bits 10:8 of `ENC_EW` (R74). -/
def encKind (w : EncWord) : Kind := w.extractLsb' 8 3

/-- Bits 7:0 of `ENC_EW` (R74). -/
def encData (w : EncWord) : Byte := w.extractLsb' 0 8

/-- The fields on the wires of a `DEC_EW` word: kind in bits `CPW+2:CPW`, cp in bits `CPW-1:0` (R75). -/
def decWordOfBits (b : DecBits) : DecWord where
  kind := b.extractLsb' Config.cpw 3
  cp := b.extractLsb' 0 Config.cpw

/-- The wires of a `DEC_EW` word: `kind` in the more significant position (R75). -/
def decWordBits (w : DecWord) : DecBits := w.kind ++ w.cp

/-- The operation an `ENC_EW` word selects (R76, R83); the payload counts only for kind 0 (R77). -/
def decodeEnc (w : EncWord) : Except DecodeError Instr :=
  match (encKind w).toNat with
  | 0 => .ok (.encPut (encData w))
  | 1 => .ok .encEnd
  | 2 => .ok .encIofail
  | 4 => .ok .encStart
  | _ => .error (.reservedEncKind (encKind w))

/-- The operation a `DEC_EW` word selects (R76, R83); the payload counts only for kind 0 (R77). -/
def decodeDec (w : DecWord) : Except DecodeError Instr :=
  match w.kind.toNat with
  | 0 => .ok (.decSym w.cp)
  | 1 => .ok .decEnd
  | 2 => .ok .decIofail
  | 3 => .ok .decBad
  | 4 => .ok .decStart
  | _ => .error (.reservedDecKind w.kind)

/-- The operation that a word at a port selects, or why there is none (R83, R86). -/
def decode : PortWord → Except DecodeError Instr
  | .encEw w => decodeEnc w
  | .decEw w => decodeDec w
  | .symbolTaken => .ok .encEmit
  | .c2sIn c => .ok (.lutC2s c)
  | .s2cIn s => .ok (.lutS2c s)

/-- `ENC_EW` from its fields: `kind` in the more significant position (R74). -/
def encWord (k : Kind) (data : Byte) : EncWord := k ++ data

/-- The word that selects an operation (R76, R86), with payload 0 where it is ignored
(R77; DESIGN CHOICE, log 15). -/
def encode : Instr → PortWord
  | .encPut b => .encEw (encWord 0 b)
  | .encEnd => .encEw (encWord 1 0)
  | .encIofail => .encEw (encWord 2 0)
  | .encStart => .encEw (encWord 4 0)
  | .encEmit => .symbolTaken
  | .decSym s => .decEw ⟨0, s⟩
  | .decEnd => .decEw ⟨1, 0⟩
  | .decIofail => .decEw ⟨2, 0⟩
  | .decBad => .decEw ⟨3, 0⟩
  | .decStart => .decEw ⟨4, 0⟩
  | .lutC2s c => .c2sIn c
  | .lutS2c s => .s2cIn s

/-- The port a word stands on. -/
def portOfWord : PortWord → Port
  | .encEw _ => .encIn
  | .decEw _ => .decIn
  | .symbolTaken => .encOut
  | .c2sIn _ => .c2s
  | .s2cIn _ => .s2c

/-- The port through which an operation is selected (R86). -/
def portOf : Instr → Port
  | .encPut _ | .encEnd | .encIofail | .encStart => .encIn
  | .encEmit => .encOut
  | .decSym _ | .decEnd | .decIofail | .decBad | .decStart => .decIn
  | .lutC2s _ => .c2s
  | .lutS2c _ => .s2c

/-- What a port's wires carry, as a number: bit 0 is the word's least significant bit. The symbol sink
taking a word drives no input wire (R86). -/
def portBits : PortWord → Nat
  | .encEw w => w.toNat
  | .decEw w => (decWordBits w).toNat
  | .symbolTaken => 0
  | .c2sIn c => c.toNat
  | .s2cIn s => s.toNat

/-- The word on a port's wires, read from their number. -/
def readPort (p : Port) (n : Nat) : PortWord :=
  match p with
  | .encIn => .encEw (BitVec.ofNat 11 n)
  | .decIn => .decEw (decWordOfBits (BitVec.ofNat (3 + Config.cpw) n))
  | .encOut => .symbolTaken
  | .c2s => .c2sIn (BitVec.ofNat 2 n)
  | .s2c => .s2cIn (BitVec.ofNat Config.cpw n)

/-- A `DEC_EW` word as spec/opcode_table.json draws it, 24 bits at `CPW = 21`, with its symbol value
taken to this build's width (DESIGN CHOICE, log 10). -/
def tableDecWord (n : Nat) : DecWord :=
  let b := BitVec.ofNat (3 + Config.tableCpw) n
  { kind := b.extractLsb' Config.tableCpw 3
    cp := (b.extractLsb' 0 Config.tableCpw).setWidth Config.cpw }

/-- The port word of a word of spec/opcode_table.json, found from its number of bits, if the number
fits that port's wires as the table draws them, for `CPW = 21` (DESIGN CHOICE, log 10: the table's
words carry no port). -/
def tableWord (nbits w : Nat) : Option PortWord :=
  if nbits = 11 ∨ nbits = 16 then
    if w < 2 ^ 11 then some (.encEw (BitVec.ofNat 11 w)) else none
  else if nbits = 3 + Config.tableCpw then
    if w < 2 ^ (3 + Config.tableCpw) then some (.decEw (tableDecWord w)) else none
  else if nbits = 2 ∨ nbits = 8 then
    if w < 2 ^ 2 then some (.c2sIn (BitVec.ofNat 2 w)) else none
  else if nbits = Config.tableCpw then
    if w < 2 ^ Config.tableCpw then some (.s2cIn (BitVec.ofNat Config.cpw w)) else none
  else none

/-- The operation read from a word of the opcode table (R86; log 10). -/
def decodeTableWord (nbits w : Nat) : Option Instr :=
  match tableWord nbits w with
  | some pw => (decode pw).toOption
  | none => none

end Sys2Proof
end

