-- ==== Sys2Proof/Machine/Ports.lean ====
section
/-! DEFINITION. What the host's next act brings: an event of a unit, a change of the environment, or a
word that selects no operation (spec/00_scope.md R8, R9; spec/30_encoding.md R80, R83). -/

namespace Sys2Proof.Machine

/-- What one turn of the host amounts to. -/
inductive Turn where
  /-- No event of the block's operations: the state after the act is this one. -/
  | quiet (t : State)
  /-- The operation is offered to the block in this state. -/
  | event (i : Instr) (t : State)
  /-- The word has a reserved kind (R80). -/
  | refuse (r : Refusal)
deriving DecidableEq, Repr

/-- The refusal of a reserved kind (R80; log 7). -/
def refusalOf : DecodeError → Refusal
  | .reservedEncKind k => .reservedEncKind k
  | .reservedDecKind k => .reservedDecKind k

/-- The operation a port word selects is offered to the block (R83). -/
def eventOf (w : PortWord) (s : State) : Turn :=
  match decode w with
  | .ok i => .event i s
  | .error e => .refuse (refusalOf e)

/-- The effect of one act of the host; a served port with nothing offered is a pause (R64). -/
def turnOf (a : HostAct) (s : State) : Turn :=
  match a with
  | .offerEnc w => .quiet { s with encPort := w }
  | .offerDec w => .quiet { s with decPort := w }
  | .serveEnc =>
    match s.encPort with
    | some w => eventOf (.encEw w) s
    | none => .quiet s
  | .serveDec =>
    match s.decPort with
    | some w => eventOf (.decEw w) s
    | none => .quiet s
  | .takeSymbol => eventOf .symbolTaken s
  | .byteSink ready => .quiet { s with byteSinkReady := ready }
  | .lookC2s c => eventOf (.c2sIn c) s
  | .lookS2c x => eventOf (.s2cIn x) s
  | .reset => .quiet s.resetBlock
  | .pause => .quiet s

/-- The next turn: the first act of the host is taken from its list; with none left it is a pause. -/
def nextTurn (s : State) : Turn :=
  match s.host with
  | [] => .quiet s
  | a :: rest => turnOf a { s with host := rest }

/-- An accepted word leaves its input port; one that is not accepted stays offered (R8, R51; log 6).
`before` is the state in which the operation was offered. -/
def release (i : Instr) (before after : State) : State :=
  if enabled i before then
    match portOf i with
    | .encIn => { after with encPort := none }
    | .decIn => { after with decPort := none }
    | .encOut | .c2s | .s2c => after
  else after

/-- The end of the step in which an operation was offered. -/
def conclude (i : Instr) (before : State) :
    Host.Outcome State Fault Refusal → Host.Outcome State Fault Refusal
  | .next after => .next (release i before after)
  | .fault f => .fault f
  | .refused r => .refused r

/-- The host puts a port word where the next turn takes it: on its port, with the act that serves that
port first in the host's list. -/
def offer (w : PortWord) (s : State) : State :=
  match w with
  | .encEw x => { s with encPort := some x, host := .serveEnc :: s.host }
  | .decEw x => { s with decPort := some x, host := .serveDec :: s.host }
  | .symbolTaken => { s with host := .takeSymbol :: s.host }
  | .c2sIn c => { s with host := .lookC2s c :: s.host }
  | .s2cIn x => { s with host := .lookS2c x :: s.host }

/-- The same for a word of spec/opcode_table.json; no change where there is no such word (log 10, 11). -/
def offerTableWord (s : State) (nbits w : Nat) : State :=
  match tableWord nbits w with
  | some pw => offer pw s
  | none => s

end Sys2Proof.Machine
end

