-- ==== Sys2Proof/Machine/Step.lean ====
section
/-! DEFINITION. One step of the machine: one act of the host, and the event it brings, if any
(spec/00_scope.md R8: each event is one atomic step of one unit). -/

namespace Sys2Proof.Machine

/-- One step: the host's next act; an offered operation runs as `exec` says (R8, R83). -/
def step (s : State) : Host.Outcome State Fault Refusal :=
  match nextTurn s with
  | .quiet t => .next t
  | .event i t => conclude i t (exec i t)
  | .refuse r => .refused r

/-- The state in which the next step is offered the operation of a word of the opcode table (log 11). -/
def State.withFetchWord (s : State) (nbits w : Nat) : State := offerTableWord s nbits w

end Sys2Proof.Machine
end

