-- ==== Sys2Proof/Machine/Pass.lean ====
section
/-! DEFINITION. Whole passes (spec/43_pass_semantics.md): the functions `enc` and `dec`, the
pseudo-operations of spec/30_encoding.md R85 as lists of events, and a list of events played on the
machine. -/

namespace Sys2Proof.Machine

/-- The encoded form of one byte: its four symbols, most significant group first (R70, R152). -/
def encodeByte {w : Nat} (t : SymTable w) (b : Byte) : List (BitVec w) :=
  [codeToSymbol t (group b 0), codeToSymbol t (group b 1), codeToSymbol t (group b 2),
    codeToSymbol t (group b 3)]

/-- The function `enc` of R152. -/
def encodeStream {w : Nat} (t : SymTable w) : List Byte → List (BitVec w)
  | [] => []
  | b :: bytes => encodeByte t b ++ encodeStream t bytes

/-- Whether a value is in the alphabet (R12, R103). -/
def inAlphabet {w : Nat} (t : SymTable w) (s : BitVec w) : Bool := (symbolToCode t s).isSome

/-- The function `dec` of R153. -/
def decodeStream {w : Nat} (t : SymTable w) : List (BitVec w) → List Byte × PassResult
  | [] => ([], .ok)
  | s0 :: s1 :: s2 :: s3 :: rest =>
    match symbolToCode t s0, symbolToCode t s1, symbolToCode t s2, symbolToCode t s3 with
    | some c0, some c1, some c2, some c3 =>
      (pack c0 c1 c2 c3 :: (decodeStream t rest).1, (decodeStream t rest).2)
    | _, _, _, _ => ([], .err .invalidSymbol)
  | short =>
    if short.all (inAlphabet t) then ([], .err .truncatedStream) else ([], .err .invalidSymbol)

/-- A well-formed encoded stream: all symbols in the alphabet, length a multiple of 4 (R12). -/
def wellFormedStream {w : Nat} (t : SymTable w) (syms : List (BitVec w)) : Bool :=
  syms.all (inAlphabet t) && syms.length % 4 == 0

/-- The state after an operation has been offered: `exec`'s next state, which is the same state where
the operation is not enabled (R8). -/
def after (s : State) (i : Instr) : State :=
  match exec i s with
  | .next t => t
  | .fault _ => s
  | .refused _ => s

/-- Events offered one after another; those not enabled do not happen (R85, R153). -/
def play (s : State) (events : List Instr) : State := events.foldl after s

/-- Whether every event of a trace happens when its turn comes: a trace lists only such events (R84). -/
def allAccepted (s : State) : List Instr → Bool
  | [] => true
  | i :: rest => enabled i s && allAccepted (after s i) rest

/-- `ENC.BYTE b` (R85, R116). -/
def encByteEvents (b : Byte) : List Instr := [.encPut b, .encEmit, .encEmit, .encEmit, .encEmit]

/-- `ENC.PASS` (R85). -/
def encPassEvents (bytes : List Byte) : List Instr :=
  [.encStart] ++ bytes.flatMap encByteEvents ++ [.encEnd]

/-- `DEC.RUN4` (R85, R136). -/
def decRunEvents (s0 s1 s2 s3 : CP) : List Instr := [.decSym s0, .decSym s1, .decSym s2, .decSym s3]

/-- `DEC.PASS` (R85). -/
def decPassEvents (syms : List CP) : List Instr := [.decStart] ++ syms.map .decSym ++ [.decEnd]

end Sys2Proof.Machine
end

