-- ==== Sys2Proof/Safety.lean ====
section
/-! DEFINITION. The invariants claims rest on (spec/10_state.md R26, R31; spec/43_pass_semantics.md
R157) and which operations belong to which unit. -/

namespace Sys2Proof.Machine

/-- The encoder invariants E1 to E5 of R26 (that `enc_byte` holds a value is the field's type). -/
structure EncoderInvariant (s : State) : Prop where
  e1 : s.encVld = false → s.encCur = 0
  e2 : (s.encSt = .fail → s.encErr = .ioFailure) ∧ (s.encSt ≠ .fail → s.encErr = .none)
  e3 : s.encSt = .idle → s.encCur = 0 ∧ s.encVld = false
  e4 : s.encSt = .done → s.encCur = 0 ∧ s.encVld = false
  e5 : s.encVld = true → s.encSt = .run ∨ s.encSt = .fail

/-- The low bits that are 0 in `dec_acc` at a cursor 1, 2 or 3 (R30): the places of the units not yet
taken. -/
def accClear (acc : Byte) (cur : Code) : Prop :=
  (cur = 1 → acc.extractLsb' 0 6 = 0) ∧ (cur = 2 → acc.extractLsb' 0 4 = 0) ∧
    (cur = 3 → acc.extractLsb' 0 2 = 0)

/-- The decoder invariants D1 to D4 of R31, and of D5 the half that a single state can show: the low bits
of `dec_acc` that are 0. That its high bits are the codes taken in this run is a fact about the symbols
taken, since the run's codes stand nowhere else in the state. -/
structure DecoderInvariant (s : State) : Prop where
  d1 : s.decErr ≠ .none ↔ s.decSt = .fail
  d2 : s.decSt = .idle → s.decCur = 0
  d3 : s.decSt = .done → s.decCur = 0
  d4 : s.decErr = .truncatedStream → s.decCur ≠ 0
  d5Zeros : s.decSt = .run ∨ s.decSt = .fail → accClear s.decAcc s.decCur

/-- Every symbol on `EncOut` is one of the four of the alphabet (R78, R157). -/
def OutputInAlphabet (s : State) : Prop := ∀ x ∈ s.encOut, ∃ c, x = codeToSymbol Config.sym c

/-- The unit an operation belongs to; the look-ups belong to none (R9). -/
def unitOf : Instr → Option CodecUnit
  | .encPut _ | .encEnd | .encIofail | .encStart | .encEmit => some .enc
  | .decSym _ | .decEnd | .decIofail | .decBad | .decStart => some .dec
  | .lutC2s _ | .lutS2c _ => none

/-- Two states with the same encoder: state elements and output stream. -/
def SameEncoder (s t : State) : Prop :=
  s.encSt = t.encSt ∧ s.encErr = t.encErr ∧ s.encCur = t.encCur ∧ s.encVld = t.encVld ∧
    s.encByte = t.encByte ∧ s.encOut = t.encOut

/-- Two states with the same decoder: state elements and output stream. -/
def SameDecoder (s t : State) : Prop :=
  s.decSt = t.decSt ∧ s.decErr = t.decErr ∧ s.decCur = t.decCur ∧ s.decAcc = t.decAcc ∧
    s.decOut = t.decOut

/-- Two states with the same answers given on the look-up ports, and the same free value next. -/
def SameAnswers (s t : State) : Prop :=
  s.c2sOut = t.c2sOut ∧ s.s2cOut = t.s2cOut ∧ s.freeTick = t.freeTick

/-- Two states with the same environment: words offered, byte sink, host's acts. -/
def SameEnvironment (s t : State) : Prop :=
  s.encPort = t.encPort ∧ s.decPort = t.decPort ∧ s.byteSinkReady = t.byteSinkReady ∧ s.host = t.host

/-- A number of steps, one after another, stopping at the first refusal. -/
def runSteps : Nat → State → Host.Outcome State Fault Refusal
  | 0, s => .next s
  | n + 1, s =>
    match step s with
    | .next t => runSteps n t
    | .fault f => .fault f
    | .refused r => .refused r

/-- All the host's acts taken, one a step (R8). -/
def runHost (s : State) : Host.Outcome State Fault Refusal := runSteps s.host.length s

end Sys2Proof.Machine
end

