-- ==== Sys2Proof/Certificates/Slice0/Obligations.lean ====
section
/-! DEFINITION. The statements for the provers. Each cites the rule of spec/ it comes from. An operation
that cannot happen now is said to change nothing in the form: whatever next state `exec` answers is the
state before (R8); that it does answer one is the model's (log 6) and stands in a statement of its own. -/

open Sys2Proof Sys2Proof.Machine

/-! ## Encodings -/

/-- Decoding the encoding of any operation gives it back, with every operand at every value, and so does
decoding what is read from the wires that carry it, whatever `CPW` is (R74 to R76, R86). The payload 0
that `encode` writes on a word without data is the model's choice (log 15). -/
def Obligations.DecodeOfEncodeIsTheInstruction : Prop :=
  ∀ i : Instr, decode (encode i) = .ok i ∧ decode (readPort (portOf i) (portBits (encode i))) = .ok i

/-- R86: mask and match of every row, over every word of each port. The decoder's are given for the
build's own `CPW`, where the mask is three ones and `CPW` zeros, and with the rule's numbers for the kind
field of a 24-bit word, `CPW = 21`. -/
def Obligations.WordsSelectByMaskAndMatch : Prop :=
  (∀ w : BitVec 11,
    (w &&& 0x700 = 0x000 → decode (.encEw w) = .ok (.encPut (w.extractLsb' 0 8))) ∧
    (w &&& 0x700 = 0x100 → decode (.encEw w) = .ok .encEnd) ∧
    (w &&& 0x700 = 0x200 → decode (.encEw w) = .ok .encIofail) ∧
    (w &&& 0x700 = 0x400 → decode (.encEw w) = .ok .encStart) ∧
    (w &&& 0x700 = 0x300 ∨ w &&& 0x700 = 0x500 ∨ w &&& 0x700 = 0x600 ∨ w &&& 0x700 = 0x700 →
      ∃ e, decode (.encEw w) = .error e)) ∧
  (∀ w : DecBits,
    let field := w &&& (7#3 ++ 0#Config.cpw)
    (field = 0#3 ++ 0#Config.cpw → decode (.decEw (decWordOfBits w)) = .ok (.decSym (w.setWidth Config.cpw))) ∧
    (field = 1#3 ++ 0#Config.cpw → decode (.decEw (decWordOfBits w)) = .ok .decEnd) ∧
    (field = 2#3 ++ 0#Config.cpw → decode (.decEw (decWordOfBits w)) = .ok .decIofail) ∧
    (field = 3#3 ++ 0#Config.cpw → decode (.decEw (decWordOfBits w)) = .ok .decBad) ∧
    (field = 4#3 ++ 0#Config.cpw → decode (.decEw (decWordOfBits w)) = .ok .decStart) ∧
    (field = 5#3 ++ 0#Config.cpw ∨ field = 6#3 ++ 0#Config.cpw ∨ field = 7#3 ++ 0#Config.cpw →
      ∃ e, decode (.decEw (decWordOfBits w)) = .error e)) ∧
  (∀ (w : BitVec 24) (x : CP),
    (w &&& 0xE00000 = 0x000000 → decode (.decEw ⟨w.extractLsb' 21 3, x⟩) = .ok (.decSym x)) ∧
    (w &&& 0xE00000 = 0x200000 → decode (.decEw ⟨w.extractLsb' 21 3, x⟩) = .ok .decEnd) ∧
    (w &&& 0xE00000 = 0x400000 → decode (.decEw ⟨w.extractLsb' 21 3, x⟩) = .ok .decIofail) ∧
    (w &&& 0xE00000 = 0x600000 → decode (.decEw ⟨w.extractLsb' 21 3, x⟩) = .ok .decBad) ∧
    (w &&& 0xE00000 = 0x800000 → decode (.decEw ⟨w.extractLsb' 21 3, x⟩) = .ok .decStart) ∧
    (w &&& 0xE00000 = 0xA00000 ∨ w &&& 0xE00000 = 0xC00000 ∨ w &&& 0xE00000 = 0xE00000 →
      ∃ e, decode (.decEw ⟨w.extractLsb' 21 3, x⟩) = .error e)) ∧
  decode .symbolTaken = .ok .encEmit ∧
  (∀ (c : Code), decode (.c2sIn c) = .ok (.lutC2s c)) ∧
  (∀ (x : CP), decode (.s2cIn x) = .ok (.lutS2c x))

/-- R77: where `kind` is not 0 the payload is ignored, on both ports. -/
def Obligations.PayloadIsIgnoredWithoutData : Prop :=
  ∀ k : Kind, k ≠ 0 →
    (∀ d d' : Byte, decode (.encEw (k ++ d)) = decode (.encEw (k ++ d'))) ∧
    (∀ x x' : CP, decode (.decEw (decWordOfBits (k ++ x))) = decode (.decEw (decWordOfBits (k ++ x'))))

/-- A port served a word of a reserved kind: the step is refused by that kind's name and there is no
next state. That the step refuses is the model's form (log 7). -/
def Obligations.ReservedKindsAreRefused : Prop :=
  (∀ (s : State) (w : EncWord) (rest : List HostAct), s.host = .serveEnc :: rest → s.encPort = some w →
    EncKindReserved (w.extractLsb' 8 3) → step s = .refused (.reservedEncKind (w.extractLsb' 8 3))) ∧
  (∀ (s : State) (w : DecWord) (rest : List HostAct), s.host = .serveDec :: rest → s.decPort = some w →
    DecKindReserved w.kind → step s = .refused (.reservedDecKind w.kind))

/-- Words of section 2.8 of spec/95_test_vectors.md decode as it says. The section draws `DEC_EW` for
`CPW = 21`, as the opcode table does, so its words are read as that table's (log 10). -/
def Obligations.VectorWordsDecode : Prop :=
  decode (.encEw 0x04B) = .ok (.encPut 0x4B) ∧ decode (.encEw 0x1A5) = .ok .encEnd ∧
  decode (.encEw 0x200) = .ok .encIofail ∧ decode (.encEw 0x4FF) = .ok .encStart ∧
  decodeTableWord 24 0x10FFFF = some (.decSym 0x10FFFF) ∧ decodeTableWord 24 0x200000 = some .decEnd ∧
  decodeTableWord 24 0x400000 = some .decIofail ∧ decodeTableWord 24 0x600000 = some .decBad ∧
  decodeTableWord 24 0x800031 = some .decStart ∧ decodeTableWord 24 0xA00000 = none ∧
  decodeTableWord 24 0xFFFFFF = none

/-! ## Bits of a byte, and the table -/

/-- R71: group `k` is the slice `b[7-2k : 6-2k]`, and the four groups are exactly the bits of `b`. -/
def Obligations.GroupsAreTheSlices : Prop :=
  ∀ b : Byte,
    (∀ k : Code, (group b k).setWidth 8 = (b >>> (6 - 2 * k.toNat)) &&& 0b11) ∧
    (group b 0).setWidth 8 = b >>> 6 ∧ (group b 1).setWidth 8 = (b >>> 4) &&& 3 ∧
    (group b 2).setWidth 8 = (b >>> 2) &&& 3 ∧ (group b 3).setWidth 8 = b &&& 3 ∧
    group b 0 ++ group b 1 ++ group b 2 ++ group b 3 = b

/-- R72: `pack` is the OR of the shifted codes, which is their concatenation and their sum, and it is the
inverse of taking groups. -/
def Obligations.PackIsTheInverseOfGroups : Prop :=
  (∀ c0 c1 c2 c3 : Code,
    pack c0 c1 c2 c3 = c0.setWidth 8 <<< 6 ||| c1.setWidth 8 <<< 4 ||| c2.setWidth 8 <<< 2 ||| c3.setWidth 8 ∧
    pack c0 c1 c2 c3 = c0 ++ c1 ++ c2 ++ c3 ∧
    (pack c0 c1 c2 c3).toNat = c0.toNat * 64 + c1.toNat * 16 + c2.toNat * 4 + c3.toNat ∧
    group (pack c0 c1 c2 c3) 0 = c0 ∧ group (pack c0 c1 c2 c3) 1 = c1 ∧
    group (pack c0 c1 c2 c3) 2 = c2 ∧ group (pack c0 c1 c2 c3) 3 = c3) ∧
  (∀ b : Byte, pack (group b 0) (group b 1) (group b 2) (group b 3) = b)

/-- R100: in this build no two codes share a symbol, and a value that is no entry pairs with no code. -/
def Obligations.SymbolTableIsABijection : Prop :=
  (∀ (c d : Code), codeToSymbol Config.sym c = codeToSymbol Config.sym d → c = d) ∧
  (∀ (x : CP), symbolToCode Config.sym x = none ↔ ∀ (c : Code), codeToSymbol Config.sym c ≠ x)

/-- R102 and R103: the symbol-to-code look-up case by case, and that the look-ups are inverse, for every
table a build may have. -/
def Obligations.LookUpsAreInverse : Prop :=
  ∀ (w : Nat) (t : SymTable w), t.WellFormed →
    (symbolToCode t t.s0 = some 0 ∧ symbolToCode t t.s1 = some 1 ∧ symbolToCode t t.s2 = some 2 ∧
      symbolToCode t t.s3 = some 3) ∧
    (∀ x : BitVec w, x ≠ t.s0 → x ≠ t.s1 → x ≠ t.s2 → x ≠ t.s3 → symbolToCode t x = none) ∧
    (∀ (c : Code), symbolToCode t (codeToSymbol t c) = some c) ∧
    (∀ (x : BitVec w) (c : Code), symbolToCode t x = some c → codeToSymbol t c = x) ∧
    (∀ (x : BitVec w), symbolToCode t x ≠ none ↔ x = t.s0 ∨ x = t.s1 ∨ x = t.s2 ∨ x = t.s3)

/-- R101 and the code-to-symbol port of R104: in every state the answer is `SYM[c]` and nothing else
changes. -/
def Obligations.CodeLookUpAnswersTheSymbol : Prop :=
  (codeToSymbol Config.sym 0 = Config.sym.s0 ∧ codeToSymbol Config.sym 1 = Config.sym.s1 ∧
    codeToSymbol Config.sym 2 = Config.sym.s2 ∧ codeToSymbol Config.sym 3 = Config.sym.s3) ∧
  ∀ (c : Code) (s : State),
    exec (.lutC2s c) s = .next { s with c2sOut := s.c2sOut ++ [codeToSymbol Config.sym c] }

/-- R102 and the symbol-to-code port of R104: a hit answers `{1, c}`, a miss answers a word with `hit`
= 0 whose code is the next free value (log 4: `Config.missCode` has no value in Lean, so the statement
holds for every one); nothing of either unit, of the streams or of the environment changes. -/
def Obligations.SymbolLookUpAnswersTheCode : Prop :=
  (∀ (c : Code) (s : State),
    exec (.lutS2c (codeToSymbol Config.sym c)) s = .next { s with s2cOut := s.s2cOut ++ [1#1 ++ c] }) ∧
  (∀ (x : CP) (s : State), (∀ (c : Code), codeToSymbol Config.sym c ≠ x) →
    exec (.lutS2c x) s = .next { s with
      s2cOut := s.s2cOut ++ [0#1 ++ Config.missCode s.freeTick], freeTick := s.freeTick + 1 })

/-! ## The encoder's operations -/

/-- R110: `ENC.START`, from its encoding to its effect. -/
def Obligations.EncStartOpensAPass : Prop :=
  (∀ d : Byte, decode (.encEw (4#3 ++ d)) = .ok .encStart) ∧
  (∀ (s : State), s.encSt ≠ .run →
    exec .encStart s = .next { s with encSt := .run, encErr := .none, encCur := 0, encVld := false }) ∧
  (∀ (s t : State), s.encSt = .run → exec .encStart s = .next t → t = s)

/-- R111: `ENC.PUT b`, from its encoding to its effect. -/
def Obligations.EncPutTakesTheByte : Prop :=
  (∀ b : Byte, decode (.encEw (0#3 ++ b)) = .ok (.encPut b)) ∧
  (∀ (b : Byte) (s : State), s.encSt = .run → s.encVld = false →
    exec (.encPut b) s = .next { s with encByte := b, encVld := true }) ∧
  (∀ (b : Byte) (s t : State),
    ¬ (s.encSt = .run ∧ s.encVld = false) → exec (.encPut b) s = .next t → t = s)

/-- R112: `ENC.EMIT`. The symbol is that of bits `7-2*enc_cur : 6-2*enc_cur` of the held byte; the
cursor counts modulo 4; `enc_vld` falls exactly in the step taken at cursor 3. -/
def Obligations.EncEmitSendsTheNextSymbol : Prop :=
  decode .symbolTaken = .ok .encEmit ∧
  (∀ (s : State), s.encSt = .run → s.encVld = true → s.encCur ≠ 3 →
    exec .encEmit s = .next { s with
      encOut := s.encOut ++ [codeToSymbol Config.sym (s.encByte.extractLsb' (6 - 2 * s.encCur.toNat) 2)]
      encCur := BitVec.ofNat 2 (s.encCur.toNat + 1) }) ∧
  (∀ (s : State), s.encSt = .run → s.encVld = true → s.encCur = 3 →
    exec .encEmit s = .next { s with
      encOut := s.encOut ++ [codeToSymbol Config.sym (s.encByte.extractLsb' 0 2)]
      encCur := 0
      encVld := false }) ∧
  (∀ (s t : State), ¬ (s.encSt = .run ∧ s.encVld = true) → exec .encEmit s = .next t → t = s)

/-- R113: `ENC.END`, from its encoding to its effect; nothing is emitted. -/
def Obligations.EncEndFinishesThePass : Prop :=
  (∀ d : Byte, decode (.encEw (1#3 ++ d)) = .ok .encEnd) ∧
  (∀ (s : State),
    s.encSt = .run → s.encVld = false → exec .encEnd s = .next { s with encSt := .done }) ∧
  (∀ (s t : State), ¬ (s.encSt = .run ∧ s.encVld = false) → exec .encEnd s = .next t → t = s)

/-- R114: `ENC.IOFAIL`, from its encoding to its effect, whatever is held. -/
def Obligations.EncIofailFailsThePass : Prop :=
  (∀ d : Byte, decode (.encEw (2#3 ++ d)) = .ok .encIofail) ∧
  (∀ (s : State),
    s.encSt = .run → exec .encIofail s = .next { s with encSt := .fail, encErr := .ioFailure }) ∧
  (∀ (s t : State), s.encSt ≠ .run → exec .encIofail s = .next t → t = s)

/-! ## The decoder's operations -/

/-- R130: `DEC.START`, from its encoding to its effect. -/
def Obligations.DecStartOpensAPass : Prop :=
  (∀ x : CP, decode (.decEw (decWordOfBits (4#3 ++ x))) = .ok .decStart) ∧
  (∀ (s : State), s.decSt ≠ .run →
    exec .decStart s = .next { s with decSt := .run, decErr := .none, decCur := 0 }) ∧
  (∀ (s t : State), s.decSt = .run → exec .decStart s = .next t → t = s)

/-- R131: `DEC.SYM s` with a symbol of the alphabet at each cursor (at cursor 3 with a sink that takes
the byte), with any other value at any cursor, and where the step cannot happen. -/
def Obligations.DecSymTakesOrRejectsTheSymbol : Prop :=
  (∀ x : CP, decode (.decEw (decWordOfBits (0#3 ++ x))) = .ok (.decSym x)) ∧
  (∀ (x : CP) (c : Code) (s : State), symbolToCode Config.sym x = some c → s.decSt = .run →
    (s.decCur = 0 → exec (.decSym x) s = .next { s with decAcc := c.setWidth 8 <<< 6, decCur := 1 }) ∧
    (s.decCur = 1 →
      exec (.decSym x) s = .next { s with decAcc := s.decAcc ||| c.setWidth 8 <<< 4, decCur := 2 }) ∧
    (s.decCur = 2 →
      exec (.decSym x) s = .next { s with decAcc := s.decAcc ||| c.setWidth 8 <<< 2, decCur := 3 }) ∧
    (s.decCur = 3 → s.byteSinkReady = true →
      exec (.decSym x) s = .next { s with decOut := s.decOut ++ [s.decAcc ||| c.setWidth 8], decCur := 0 }) ∧
    (s.decCur = 3 → s.byteSinkReady = false → ∀ (t : State), exec (.decSym x) s = .next t → t = s)) ∧
  (∀ (x : CP) (s : State), symbolToCode Config.sym x = none → s.decSt = .run →
    exec (.decSym x) s = .next { s with decSt := .fail, decErr := .invalidSymbol }) ∧
  (∀ (x : CP) (s t : State), s.decSt ≠ .run → exec (.decSym x) s = .next t → t = s)

/-- R132: `DEC.END`, from its encoding to its effect on both paths; nothing is emitted. -/
def Obligations.DecEndFinishesOrReportsTruncation : Prop :=
  (∀ x : CP, decode (.decEw (decWordOfBits (1#3 ++ x))) = .ok .decEnd) ∧
  (∀ (s : State), s.decSt = .run → s.decCur = 0 → exec .decEnd s = .next { s with decSt := .done }) ∧
  (∀ (s : State), s.decSt = .run → s.decCur ≠ 0 →
    exec .decEnd s = .next { s with decSt := .fail, decErr := .truncatedStream }) ∧
  (∀ (s t : State), s.decSt ≠ .run → exec .decEnd s = .next t → t = s)

/-- R133: `DEC.BAD`, from its encoding to its effect, at any cursor. -/
def Obligations.DecBadFailsThePass : Prop :=
  (∀ x : CP, decode (.decEw (decWordOfBits (3#3 ++ x))) = .ok .decBad) ∧
  (∀ (s : State), s.decSt = .run →
    exec .decBad s = .next { s with decSt := .fail, decErr := .malformedTextEncoding }) ∧
  (∀ (s t : State), s.decSt ≠ .run → exec .decBad s = .next t → t = s)

/-- R134: `DEC.IOFAIL`, from its encoding to its effect, at any cursor. -/
def Obligations.DecIofailFailsThePass : Prop :=
  (∀ x : CP, decode (.decEw (decWordOfBits (2#3 ++ x))) = .ok .decIofail) ∧
  (∀ (s : State),
    s.decSt = .run → exec .decIofail s = .next { s with decSt := .fail, decErr := .ioFailure }) ∧
  (∀ (s t : State), s.decSt ≠ .run → exec .decIofail s = .next t → t = s)

/-! ## Reset, status words, level outputs, results -/

/-- R41: the state after reset, apart from the two data registers, for which the rule gives no value. -/
def Obligations.ResetLeavesTheStatedValues : Prop :=
  State.reset.encSt = .idle ∧ State.reset.encErr.code = 0 ∧ State.reset.encCur = 0 ∧
  State.reset.encVld = false ∧ State.reset.decSt = .idle ∧ State.reset.decErr.code = 0 ∧
  State.reset.decCur = 0 ∧ State.reset.encStatus = 0x00 ∧ State.reset.decStatus = 0x00 ∧
  State.reset.encDone = false ∧ State.reset.encFail = false ∧ State.reset.decDone = false ∧
  State.reset.decFail = false

/-- R200: the `RESET` act, in every state. The data registers end with values the rule does not give. -/
def Obligations.ResetActPutsBothUnitsToIdle : Prop :=
  ∀ (s : State) (rest : List HostAct), s.host = .reset :: rest →
    ∃ (b a : Byte) (t : State), step s = .next t ∧
      t = { s with
        host := rest, encSt := .idle, encErr := .none, encCur := 0, encVld := false, encByte := b
        decSt := .idle, decErr := .none, decCur := 0, decAcc := a } ∧
      t.encStatus = 0x00 ∧ t.decStatus = 0x00 ∧ t.encDone = false ∧ t.encFail = false ∧
      t.decDone = false ∧ t.decFail = false

/-- R34, R35: where each field of the two status words lies, and their value after reset. -/
def Obligations.StatusWordsHoldTheirFields : Prop :=
  (∀ s : State,
    s.encStatus.extractLsb' 0 2 = s.encSt.code ∧ s.encStatus.extractLsb' 2 3 = s.encErr.code ∧
    s.encStatus.extractLsb' 5 2 = s.encCur ∧ s.encStatus.getLsbD 7 = s.encVld ∧
    s.decStatus.extractLsb' 0 2 = s.decSt.code ∧ s.decStatus.extractLsb' 2 3 = s.decErr.code ∧
    s.decStatus.extractLsb' 5 2 = s.decCur ∧ s.decStatus.getLsbD 7 = false) ∧
  State.reset.encStatus = 0x00 ∧ State.reset.decStatus = 0x00

/-- R36: the four level outputs are functions of the two statuses. -/
def Obligations.LevelOutputsFollowTheStatus : Prop :=
  ∀ s : State, (s.encDone = true ↔ s.encSt = .done) ∧ (s.encFail = true ↔ s.encSt = .fail) ∧
    (s.decDone = true ↔ s.decSt = .done) ∧ (s.decFail = true ↔ s.decSt = .fail)

/-- R151: what the status says of a pass, that result and status word stay until that unit's next
`START`, and that success comes with error code 0 in the states that meet R26 and R31. -/
def Obligations.ResultIsStableUntilTheNextStart : Prop :=
  (∀ s : State, (s.encSt = .done → s.encResult = some .ok) ∧
    (s.encSt = .fail → s.encResult = some (.err s.encErr)) ∧ (s.encSt = .run → s.encResult = none) ∧
    (s.decSt = .done → s.decResult = some .ok) ∧
    (s.decSt = .fail → s.decResult = some (.err s.decErr)) ∧ (s.decSt = .run → s.decResult = none)) ∧
  (∀ (i : Instr) (s t : State), exec i s = .next t →
    (s.encResult ≠ none → i ≠ .encStart → t.encResult = s.encResult ∧ t.encStatus = s.encStatus) ∧
    (s.decResult ≠ none → i ≠ .decStart → t.decResult = s.decResult ∧ t.decStatus = s.decStatus)) ∧
  (∀ s : State, (EncoderInvariant s → s.encSt = .done → s.encErr.code = 0) ∧
    (DecoderInvariant s → s.decSt = .done → s.decErr.code = 0))

/-! ## Errors -/

/-- R170: the codes of the kinds, that these events alone, with these causes, fail a pass, and that
every operation leaves the error none where the pass has not failed, if it was so before. -/
def Obligations.OnlyTheseEventsFailAPass : Prop :=
  (ErrKind.none.code = 0 ∧ ErrKind.ioFailure.code = 1 ∧ ErrKind.invalidSymbol.code = 2 ∧
    ErrKind.malformedTextEncoding.code = 3 ∧ ErrKind.truncatedStream.code = 4) ∧
  (∀ k : ErrKind, k.code.toNat ≤ 4) ∧
  (∀ (i : Instr) (s t : State), exec i s = .next t → s.encSt ≠ .fail → t.encSt = .fail →
    i = .encIofail ∧ t.encErr = .ioFailure) ∧
  (∀ (i : Instr) (s t : State), exec i s = .next t → s.decSt ≠ .fail → t.decSt = .fail →
    (i = .decIofail ∧ t.decErr = .ioFailure) ∨
    (∃ x, i = .decSym x ∧ symbolToCode Config.sym x = none ∧ t.decErr = .invalidSymbol) ∨
    (i = .decBad ∧ t.decErr = .malformedTextEncoding) ∨
    (i = .decEnd ∧ s.decCur ≠ 0 ∧ t.decErr = .truncatedStream)) ∧
  (∀ (i : Instr) (s t : State), exec i s = .next t →
    ((s.encSt ≠ .fail → s.encErr = .none) → t.encSt ≠ .fail → t.encErr = .none) ∧
    ((s.decSt ≠ .fail → s.decErr = .none) → t.decSt ≠ .fail → t.decErr = .none))

/-- R179: a failing step writes FAIL and the code of its kind to its unit's status and error and nothing
else, each event with its kind (R170), and while the unit is in FAIL no event but its `START` changes
it. -/
def Obligations.FailingStepWritesStatusAndErrorOnly : Prop :=
  ∀ (i : Instr) (s t : State), exec i s = .next t →
    (s.encSt ≠ .fail → t.encSt = .fail →
      i = .encIofail ∧ t = { s with encSt := .fail, encErr := .ioFailure }) ∧
    (s.decSt ≠ .fail → t.decSt = .fail → ∃ k, t = { s with decSt := .fail, decErr := k } ∧
      ((i = .decIofail ∧ k = .ioFailure) ∨ (∃ x, i = .decSym x ∧ k = .invalidSymbol) ∨
        (i = .decBad ∧ k = .malformedTextEncoding) ∨ (i = .decEnd ∧ k = .truncatedStream))) ∧
    (s.encSt = .fail → i ≠ .encStart → SameEncoder s t) ∧
    (s.decSt = .fail → i ≠ .decStart → SameDecoder s t)

/-- R204: outside RUN nothing but `START` touches a unit, and in RUN `START` does not. -/
def Obligations.OnlyStartOpensAPass : Prop :=
  ∀ (i : Instr) (s t : State), exec i s = .next t →
    (s.encSt ≠ .run → i ≠ .encStart → SameEncoder s t) ∧
    (s.decSt ≠ .run → i ≠ .decStart → SameDecoder s t) ∧
    (s.encSt = .run → i = .encStart → t = s) ∧ (s.decSt = .run → i = .decStart → t = s)

/-! ## Frames and isolation -/

/-- An operation of one unit leaves the other unit, its stream, the look-up ports and the environment
alone; a look-up leaves both units, both streams and the environment alone. -/
def Obligations.UnitsLeaveEachOtherAlone : Prop :=
  ∀ (i : Instr) (s t : State), exec i s = .next t →
    SameEnvironment s t ∧
    (unitOf i = some .enc → SameDecoder s t ∧ SameAnswers s t) ∧
    (unitOf i = some .dec → SameEncoder s t ∧ SameAnswers s t) ∧
    (unitOf i = none → SameEncoder s t ∧ SameDecoder s t)

/-- R61: in every interleaving each unit ends as if it ran alone. -/
def Obligations.InterleavingDoesNotMatter : Prop :=
  ∀ (s : State) (events : List Instr),
    SameEncoder (play s events) (play s (events.filter fun i => unitOf i == some .enc)) ∧
    SameDecoder (play s events) (play s (events.filter fun i => unitOf i == some .dec))

/-- Each register of the encoder and its output stream is written only by the events its rule names, with
the value that event writes (R21 to R25, R112). -/
def Obligations.EncoderRegistersAreWrittenOnlyByTheirEvents : Prop :=
  ∀ (i : Instr) (s t : State), exec i s = .next t →
    (t.encSt ≠ s.encSt → i = .encStart ∧ t.encSt = .run ∨ i = .encEnd ∧ t.encSt = .done ∨
      i = .encIofail ∧ t.encSt = .fail) ∧
    (t.encErr ≠ s.encErr → i = .encStart ∧ t.encErr = .none ∨ i = .encIofail ∧ t.encErr = .ioFailure) ∧
    (t.encCur ≠ s.encCur → i = .encStart ∧ t.encCur = 0 ∨ i = .encEmit ∧ t.encCur = s.encCur + 1) ∧
    (t.encVld ≠ s.encVld → i = .encStart ∧ t.encVld = false ∨ (∃ b, i = .encPut b) ∧ t.encVld = true ∨
      i = .encEmit ∧ s.encCur = 3 ∧ t.encVld = false) ∧
    (t.encByte ≠ s.encByte → i = .encPut t.encByte) ∧
    (t.encOut ≠ s.encOut → i = .encEmit ∧
      t.encOut = s.encOut ++ [codeToSymbol Config.sym (group s.encByte s.encCur)])

/-- Each register of the decoder and its output stream is written only by the events its rule names, with
the value that event writes (R27 to R30, R131). -/
def Obligations.DecoderRegistersAreWrittenOnlyByTheirEvents : Prop :=
  ∀ (i : Instr) (s t : State), exec i s = .next t →
    (t.decSt ≠ s.decSt → i = .decStart ∧ t.decSt = .run ∨ i = .decEnd ∧ t.decSt = .done ∨
      t.decSt = .fail ∧ (i = .decEnd ∨ i = .decBad ∨ i = .decIofail ∨
        ∃ x, i = .decSym x ∧ symbolToCode Config.sym x = none)) ∧
    (t.decErr ≠ s.decErr → i = .decStart ∧ t.decErr = .none ∨ t.decSt = .fail ∧
      (i = .decIofail ∧ t.decErr = .ioFailure ∨
        (∃ x, i = .decSym x ∧ symbolToCode Config.sym x = none) ∧ t.decErr = .invalidSymbol ∨
        i = .decBad ∧ t.decErr = .malformedTextEncoding ∨
        i = .decEnd ∧ s.decCur ≠ 0 ∧ t.decErr = .truncatedStream)) ∧
    (t.decCur ≠ s.decCur → i = .decStart ∧ t.decCur = 0 ∨
      (∃ x c, i = .decSym x ∧ symbolToCode Config.sym x = some c) ∧ t.decCur = s.decCur + 1) ∧
    (t.decAcc ≠ s.decAcc → s.decCur ≠ 3 ∧ ∃ x c, i = .decSym x ∧ symbolToCode Config.sym x = some c ∧
      t.decAcc = accumulate s.decAcc s.decCur c) ∧
    (t.decOut ≠ s.decOut → s.decCur = 3 ∧ ∃ x c, i = .decSym x ∧ symbolToCode Config.sym x = some c ∧
      t.decOut = s.decOut ++ [s.decAcc ||| place c 3])

/-- What `enc_byte` holds while `enc_vld` is 0 is never seen: with another value there every operation
does the same to all else, and `ENC.PUT` makes the two states equal. So the value at reset, the
model's choice (log 3), shows nowhere (R25). -/
def Obligations.StaleEncByteIsNeverSeen : Prop :=
  ∀ (i : Instr) (s : State) (b : Byte) (t t' : State),
    s.encVld = false → exec i s = .next t → exec i { s with encByte := b } = .next t' →
    t' = { t with encByte := t'.encByte } ∧ (t.encVld = true → t' = t)

/-- What `dec_acc` holds at cursor 0 is never seen: with another value there every operation does the
same to all else, and the first symbol of a run makes the two states equal. So the value at reset,
the model's choice (log 3), shows nowhere (R30). -/
def Obligations.StaleDecAccIsNeverSeen : Prop :=
  ∀ (i : Instr) (s : State) (a : Byte) (t t' : State),
    s.decCur = 0 → exec i s = .next t → exec i { s with decAcc := a } = .next t' →
    t' = { t with decAcc := t'.decAcc } ∧ (t.decCur ≠ 0 → t' = t)

/-! ## The step -/

/-- The step serves an offered word: it is `exec` of the operation the word decodes to, and an accepted
word leaves its port. That the port is served by an act of the host's list is the model's (log 5). -/
def Obligations.StepRunsTheOfferedWord : Prop :=
  (∀ (s : State) (w : EncWord) (i : Instr) (rest : List HostAct),
    s.host = .serveEnc :: rest → s.encPort = some w → decode (.encEw w) = .ok i →
    step s = match exec i { s with host := rest } with
      | .next t => .next (if enabled i { s with host := rest } then { t with encPort := none } else t)
      | .fault f => .fault f
      | .refused r => .refused r) ∧
  (∀ (s : State) (w : DecWord) (i : Instr) (rest : List HostAct),
    s.host = .serveDec :: rest → s.decPort = some w → decode (.decEw w) = .ok i →
    step s = match exec i { s with host := rest } with
      | .next t => .next (if enabled i { s with host := rest } then { t with decPort := none } else t)
      | .fault f => .fault f
      | .refused r => .refused r)

/-- The step serves the ports that have no input word: the symbol sink and the two look-up ports
(log 5). -/
def Obligations.StepRunsTransfersAndLookUps : Prop :=
  (∀ (s : State) (rest : List HostAct),
    s.host = .takeSymbol :: rest → step s = exec .encEmit { s with host := rest }) ∧
  (∀ (s : State) (c : Code) (rest : List HostAct),
    s.host = .lookC2s c :: rest → step s = exec (.lutC2s c) { s with host := rest }) ∧
  (∀ (s : State) (x : CP) (rest : List HostAct),
    s.host = .lookS2c x :: rest → step s = exec (.lutS2c x) { s with host := rest })

/-- An operation that is not enabled answers the same state, and its word stays offered on its port; that
the answer is a next state is the model's form (log 6). -/
def Obligations.NotAcceptedWordStaysOffered : Prop :=
  (∀ (i : Instr) (s : State), enabled i s = false → exec i s = .next s) ∧
  (∀ (s : State) (w : EncWord) (i : Instr) (rest : List HostAct),
    s.host = .serveEnc :: rest → s.encPort = some w → decode (.encEw w) = .ok i →
    enabled i s = false → step s = .next { s with host := rest }) ∧
  (∀ (s : State) (w : DecWord) (i : Instr) (rest : List HostAct),
    s.host = .serveDec :: rest → s.decPort = some w → decode (.decEw w) = .ok i →
    enabled i s = false → step s = .next { s with host := rest })

/-- Which operations happen in which state, read off from what `exec` changes: every event of a unit
changes its state exactly when the tables of R115 and R135 enable it (for `DEC.SYM` with a byte to
hand over, when the sink takes it too, log 13). -/
def Obligations.EventsHappenExactlyWhenEnabled : Prop :=
  (∀ (b : Byte) (s : State), exec (.encPut b) s ≠ .next s ↔ s.encSt = .run ∧ s.encVld = false) ∧
  (∀ (s : State), exec .encEmit s ≠ .next s ↔ s.encSt = .run ∧ s.encVld = true) ∧
  (∀ (s : State), exec .encEnd s ≠ .next s ↔ s.encSt = .run ∧ s.encVld = false) ∧
  (∀ (s : State), exec .encIofail s ≠ .next s ↔ s.encSt = .run) ∧
  (∀ (s : State), exec .encStart s ≠ .next s ↔ s.encSt ≠ .run) ∧
  (∀ (x : CP) (s : State), exec (.decSym x) s ≠ .next s ↔ s.decSt = .run ∧
    (s.decCur = 3 → symbolToCode Config.sym x ≠ none → s.byteSinkReady = true)) ∧
  (∀ (s : State), exec .decEnd s ≠ .next s ↔ s.decSt = .run) ∧
  (∀ (s : State), exec .decBad s ≠ .next s ↔ s.decSt = .run) ∧
  (∀ (s : State), exec .decIofail s ≠ .next s ↔ s.decSt = .run) ∧
  (∀ (s : State), exec .decStart s ≠ .next s ↔ s.decSt ≠ .run)

/-- Acts of the host that are no event change only the environment; with no act left the machine
pauses (log 5; R8, R64). -/
def Obligations.ActsWithoutEventChangeOnlyTheEnvironment : Prop :=
  (∀ (s : State), s.host = [] → step s = .next s) ∧
  (∀ (s : State) (rest : List HostAct),
    s.host = .pause :: rest → step s = .next { s with host := rest }) ∧
  (∀ (s : State) (w : Option EncWord) (rest : List HostAct),
    s.host = .offerEnc w :: rest → step s = .next { s with host := rest, encPort := w }) ∧
  (∀ (s : State) (w : Option DecWord) (rest : List HostAct),
    s.host = .offerDec w :: rest → step s = .next { s with host := rest, decPort := w }) ∧
  (∀ (s : State) (r : Bool) (rest : List HostAct),
    s.host = .byteSink r :: rest → step s = .next { s with host := rest, byteSinkReady := r }) ∧
  (∀ (s : State) (rest : List HostAct),
    s.host = .serveEnc :: rest → s.encPort = none → step s = .next { s with host := rest }) ∧
  (∀ (s : State) (rest : List HostAct),
    s.host = .serveDec :: rest → s.decPort = none → step s = .next { s with host := rest })

/-- A pause anywhere in the host's acts changes neither the end state nor any output, nor whether the run
gets through (R64, R160; the host's list is the model's, log 5). -/
def Obligations.PausesAreInvisible : Prop :=
  ∀ (s : State) (before rest : List HostAct),
    runHost { s with host := before ++ .pause :: rest } = runHost { s with host := before ++ rest }

/-- Each output stream only grows, by at most one element a step, and nothing on it is changed or taken
back (R51). -/
def Obligations.OutputStreamsOnlyGrow : Prop :=
  ∀ (s t : State), step s = .next t →
    (∃ new, t.encOut = s.encOut ++ new ∧ new.length ≤ 1) ∧
    (∃ new, t.decOut = s.decOut ++ new ∧ new.length ≤ 1)

/-! ## Invariants -/

/-- R26 and R31 (D5 in its zero-bits half) hold right after reset, and so does R157 (nothing is emitted yet). -/
def Obligations.ResetMeetsTheInvariants : Prop :=
  EncoderInvariant State.reset ∧ DecoderInvariant State.reset ∧ OutputInAlphabet State.reset

/-- R26: every step keeps the encoder invariants, from every state that meets them. -/
def Obligations.StepKeepsTheEncoderInvariant : Prop :=
  ∀ (s t : State), EncoderInvariant s → step s = .next t → EncoderInvariant t

/-- R31: every step keeps the decoder invariants D1 to D4, and of D5 the half that says which low bits of
`dec_acc` are 0, from every state that meets them. The other half of D5, that the high bits are the codes
taken in this run, is about the symbols taken and not about one state: it is
`DecRunEmitsOneByte` while the run goes on, and `FailingStepWritesStatusAndErrorOnly` for FAIL. -/
def Obligations.StepKeepsTheDecoderInvariant : Prop :=
  ∀ (s t : State), DecoderInvariant s → step s = .next t → DecoderInvariant t

/-- R157: every step keeps `EncOut` within the alphabet. -/
def Obligations.StepKeepsTheOutputInTheAlphabet : Prop :=
  ∀ (s t : State), OutputInAlphabet s → step s = .next t → OutputInAlphabet t

/-! ## Whole passes -/

/-- R116: `ENC.BYTE b` is accepted event by event, with nothing but `ENC.IOFAIL` of the encoder able to
come between, and emits the four symbols of the byte in order. -/
def Obligations.EncByteEmitsItsFourSymbols : Prop :=
  ∀ (s : State) (b : Byte), EncoderInvariant s → s.encSt = .run → s.encVld = false →
    allAccepted s (encByteEvents b) = true ∧
    (∀ (k : Nat) (i : Instr),
      k < 4 → unitOf i = some .enc → enabled i (play s ((encByteEvents b).take (k + 1))) = true →
      i = .encEmit ∨ i = .encIofail) ∧
    play s (encByteEvents b) = { s with
      encByte := b, encCur := 0, encVld := false
      encOut := s.encOut ++ [codeToSymbol Config.sym (b.extractLsb' 6 2),
        codeToSymbol Config.sym (b.extractLsb' 4 2),
        codeToSymbol Config.sym (b.extractLsb' 2 2), codeToSymbol Config.sym (b.extractLsb' 0 2)] }

/-- `DEC.RUN4` (R136): after one, two and three symbols of the alphabet `dec_acc` is their codes from bit 7
down and zeros (R30, D5 of R31), the fourth gives exactly one byte; a run cut by a symbol outside the
alphabet gives none, stops at that symbol's place and keeps those codes in `dec_acc`. -/
def Obligations.DecRunEmitsOneByte : Prop :=
  (∀ (s : State) (c0 c1 c2 : Code), s.decSt = .run → s.decCur = 0 → s.byteSinkReady = true →
    play s [.decSym (codeToSymbol Config.sym c0)] = { s with decAcc := c0 ++ 0#6, decCur := 1 } ∧
    play s [.decSym (codeToSymbol Config.sym c0), .decSym (codeToSymbol Config.sym c1)] =
      { s with decAcc := c0 ++ c1 ++ 0#4, decCur := 2 } ∧
    play s [.decSym (codeToSymbol Config.sym c0), .decSym (codeToSymbol Config.sym c1),
        .decSym (codeToSymbol Config.sym c2)] =
      { s with decAcc := c0 ++ c1 ++ c2 ++ 0#2, decCur := 3 }) ∧
  (∀ (s : State) (c0 c1 c2 c3 : Code), s.decSt = .run → s.decCur = 0 → s.byteSinkReady = true →
    play s (decRunEvents (codeToSymbol Config.sym c0) (codeToSymbol Config.sym c1)
        (codeToSymbol Config.sym c2) (codeToSymbol Config.sym c3)) =
      { s with decOut := s.decOut ++ [pack c0 c1 c2 c3], decAcc := c0 ++ c1 ++ c2 ++ 0#2, decCur := 0 }) ∧
  (∀ (s : State) (good rest : List CP) (x : CP),
    s.decSt = .run → s.decCur = 0 → s.byteSinkReady = true →
    good.all (inAlphabet Config.sym) = true → inAlphabet Config.sym x = false →
    good.length + 1 + rest.length = 4 →
    (play s ((good ++ x :: rest).map .decSym)).decSt = .fail ∧
    (play s ((good ++ x :: rest).map .decSym)).decErr = .invalidSymbol ∧
    (play s ((good ++ x :: rest).map .decSym)).decCur = BitVec.ofNat 2 good.length ∧
    (play s ((good ++ x :: rest).map .decSym)).decAcc = (play s (good.map .decSym)).decAcc ∧
    (play s ((good ++ x :: rest).map .decSym)).decOut = s.decOut)

/-- An encode pass over any bytes is accepted event by event, emits `enc` of them and ends with success
(R152). -/
def Obligations.EncodePassYieldsEnc : Prop :=
  ∀ (s : State) (bytes : List Byte), s.encSt ≠ .run →
    allAccepted s (encPassEvents bytes) = true ∧
    play s (encPassEvents bytes) = { s with
      encSt := .done, encErr := .none, encCur := 0, encVld := false
      encByte := bytes.getLast?.getD s.encByte
      encOut := s.encOut ++ encodeStream Config.sym bytes }

/-- A pass cut short anywhere has emitted as many elements of `enc` as it had `EMIT` steps (R152). -/
def Obligations.CutShortEncodePassYieldsAPrefix : Prop :=
  ∀ (s : State) (bytes : List Byte) (k : Nat), s.encSt ≠ .run →
    (play s ((encPassEvents bytes).take k)).encOut = s.encOut ++
      (encodeStream Config.sym bytes).take (((encPassEvents bytes).take k).count .encEmit)

/-- A decode pass over any sequence of `CP` values has the output and the result of `dec` (R153), with
a byte sink that takes every byte. -/
def Obligations.DecodePassYieldsDec : Prop :=
  ∀ (s : State) (syms : List CP), s.decSt ≠ .run → s.byteSinkReady = true →
    (play s (decPassEvents syms)).decOut = s.decOut ++ (decodeStream Config.sym syms).1 ∧
    (play s (decPassEvents syms)).decResult = some (decodeStream Config.sym syms).2

/-- A decode pass over symbols of the alphabet cut by `DEC.BAD` or `DEC.IOFAIL` has emitted the bytes of
its complete runs and has that event's error (R153, R180). -/
def Obligations.CutShortDecodePassYieldsCompleteRuns : Prop :=
  ∀ (s : State) (syms : List CP),
    s.decSt ≠ .run → s.byteSinkReady = true → syms.all (inAlphabet Config.sym) = true →
    ∀ (i : Instr) (k : ErrKind),
      (i = .decBad ∧ k = .malformedTextEncoding) ∨ (i = .decIofail ∧ k = .ioFailure) →
      (play s ([.decStart] ++ syms.map .decSym ++ [i])).decResult = some (.err k) ∧
      (play s ([.decStart] ++ syms.map .decSym ++ [i])).decOut =
        s.decOut ++ (decodeStream Config.sym (syms.take (4 * (syms.length / 4)))).1 ∧
      (play s ([.decStart] ++ syms.map .decSym ++ [i])).decOut.length = s.decOut.length + syms.length / 4

/-- R154: the round trip, for every table a build may have, and on the machine: an encode pass and then a
decode pass of what it emitted give the bytes back, with success. -/
def Obligations.DecodingTheEncodingGivesTheBytes : Prop :=
  (∀ (w : Nat) (t : SymTable w), t.WellFormed → ∀ (bytes : List Byte),
    decodeStream t (encodeStream t bytes) = (bytes, .ok)) ∧
  (∀ (s : State) (bytes : List Byte) (emitted : List CP),
    s.encSt ≠ .run → s.decSt ≠ .run → s.byteSinkReady = true →
    (play s (encPassEvents bytes)).encOut = s.encOut ++ emitted →
    (play (play s (encPassEvents bytes)) (decPassEvents emitted)).decOut = s.decOut ++ bytes ∧
    (play (play s (encPassEvents bytes)) (decPassEvents emitted)).decSt = .done)

/-- R155: N bytes give exactly 4N symbols. -/
def Obligations.EncodedLengthIsFourTimes : Prop :=
  ∀ (w : Nat) (t : SymTable w) (bytes : List Byte), (encodeStream t bytes).length = 4 * bytes.length

/-- R156: 4N symbols of the alphabet give exactly N bytes, with success. -/
def Obligations.DecodedLengthIsAQuarter : Prop :=
  ∀ (w : Nat) (t : SymTable w) (syms : List (BitVec w)) (n : Nat), syms.all (inAlphabet t) = true → syms.length = 4 * n →
    (decodeStream t syms).2 = .ok ∧ (decodeStream t syms).1.length = n

/-- R158: a value outside the alphabet ends the pass there; the runs before its own have given their
bytes and its own gives none. -/
def Obligations.OutsideSymbolEndsThePass : Prop :=
  ∀ (s : State) (good rest : List CP) (x : CP), s.decSt ≠ .run → s.byteSinkReady = true →
    good.all (inAlphabet Config.sym) = true → inAlphabet Config.sym x = false →
    (play s (decPassEvents (good ++ x :: rest))).decSt = .fail ∧
    (play s (decPassEvents (good ++ x :: rest))).decErr = .invalidSymbol ∧
    (play s (decPassEvents (good ++ x :: rest))).decCur = BitVec.ofNat 2 (good.length % 4) ∧
    (play s (decPassEvents (good ++ x :: rest))).decOut =
      s.decOut ++ (decodeStream Config.sym (good.take (4 * (good.length / 4)))).1 ∧
    (play s (decPassEvents (good ++ x :: rest))).decOut.length = s.decOut.length + good.length / 4

/-- R159: a stream that stops inside a run is reported, and its leftover symbols give no byte. -/
def Obligations.TruncatedStreamIsReported : Prop :=
  ∀ (s : State) (syms : List CP), s.decSt ≠ .run → s.byteSinkReady = true →
    syms.all (inAlphabet Config.sym) = true → syms.length % 4 ≠ 0 →
    (play s (decPassEvents syms)).decSt = .fail ∧
    (play s (decPassEvents syms)).decErr = .truncatedStream ∧
    (play s (decPassEvents syms)).decCur = BitVec.ofNat 2 (syms.length % 4) ∧
    (play s (decPassEvents syms)).decOut =
      s.decOut ++ (decodeStream Config.sym (syms.take (4 * (syms.length / 4)))).1 ∧
    (play s (decPassEvents syms)).decOut.length = s.decOut.length + syms.length / 4

/-- R161: the empty stream, in both directions, as functions and on the machine. -/
def Obligations.EmptyStreamGivesNothing : Prop :=
  (∀ (w : Nat) (t : SymTable w), encodeStream t [] = [] ∧ decodeStream t [] = ([], .ok)) ∧
  (∀ (s : State), s.encSt ≠ .run → (play s [.encStart, .encEnd]).encSt = .done ∧
    (play s [.encStart, .encEnd]).encOut = s.encOut) ∧
  (∀ (s : State), s.decSt ≠ .run → (play s [.decStart, .decEnd]).decSt = .done ∧
    (play s [.decStart, .decEnd]).decOut = s.decOut)

/-- R162: streams placed end to end. -/
def Obligations.StreamsConcatenate : Prop :=
  ∀ (w : Nat) (t : SymTable w),
    (∀ (a b : List Byte), encodeStream t (a ++ b) = encodeStream t a ++ encodeStream t b) ∧
    (∀ (syms more : List (BitVec w)) (a : List Byte), decodeStream t syms = (a, .ok) →
      decodeStream t (syms ++ more) = (a ++ (decodeStream t more).1, (decodeStream t more).2))

/-- The codec is a bijection between byte sequences and well-formed streams, and every other stream is
rejected with one of two errors (R163). -/
def Obligations.CodecIsABijection : Prop :=
  ∀ (w : Nat) (t : SymTable w), t.WellFormed →
    (∀ (a b : List Byte), encodeStream t a = encodeStream t b → a = b) ∧
    (∀ (syms : List (BitVec w)),
      wellFormedStream t syms = true → ∃ bytes, encodeStream t bytes = syms ∧
        (decodeStream t syms).1 = bytes) ∧
    (∀ (syms : List (BitVec w)) (out : List Byte),
      decodeStream t syms = (out, .ok) → encodeStream t out = syms) ∧
    (∀ (syms : List (BitVec w)), wellFormedStream t syms = false →
      (decodeStream t syms).2 = .err .invalidSymbol ∨ (decodeStream t syms).2 = .err .truncatedStream)
end

