-- ==== Sys2Proof/Laws/Decode.lean ====
section
/-! SUPPORT. The fields of an event word and its wires (spec/30_encoding.md R74, R75). -/

namespace Sys2Proof

@[simp] theorem encKind_encWord (k : Kind) (d : Byte) : encKind (encWord k d) = k := by
  simp only [encKind, encWord]; exact BitVec.extractLsb'_append_eq_left

@[simp] theorem encData_encWord (k : Kind) (d : Byte) : encData (encWord k d) = d := by
  simp only [encData, encWord]; exact BitVec.extractLsb'_append_eq_right

/-- The fields read from the wires `kind ++ cp`. -/
@[simp] theorem decWordOfBits_append (k : Kind) (x : CP) : decWordOfBits (k ++ x) = ⟨k, x⟩ := by
  simp only [decWordOfBits, BitVec.extractLsb'_append_eq_left, BitVec.extractLsb'_append_eq_right]

@[simp] theorem decWordOfBits_decWordBits (w : DecWord) : decWordOfBits (decWordBits w) = w :=
  decWordOfBits_append w.kind w.cp

end Sys2Proof
end

