-- ==== Sys2Proof/Laws/State.lean ====
section
/-! SUPPORT. What each named update does to each field of State, so that no proof unfolds one. -/

namespace Sys2Proof.Machine

variable (s : State)

/-! s.putSymbol x -/

@[simp] theorem State.putSymbol_encSt (x : CP) : (s.putSymbol x).encSt = s.encSt := rfl
@[simp] theorem State.putSymbol_encErr (x : CP) : (s.putSymbol x).encErr = s.encErr := rfl
@[simp] theorem State.putSymbol_encCur (x : CP) : (s.putSymbol x).encCur = s.encCur := rfl
@[simp] theorem State.putSymbol_encVld (x : CP) : (s.putSymbol x).encVld = s.encVld := rfl
@[simp] theorem State.putSymbol_encByte (x : CP) : (s.putSymbol x).encByte = s.encByte := rfl
@[simp] theorem State.putSymbol_decSt (x : CP) : (s.putSymbol x).decSt = s.decSt := rfl
@[simp] theorem State.putSymbol_decErr (x : CP) : (s.putSymbol x).decErr = s.decErr := rfl
@[simp] theorem State.putSymbol_decCur (x : CP) : (s.putSymbol x).decCur = s.decCur := rfl
@[simp] theorem State.putSymbol_decAcc (x : CP) : (s.putSymbol x).decAcc = s.decAcc := rfl
@[simp] theorem State.putSymbol_encOut (x : CP) : (s.putSymbol x).encOut = s.encOut ++ [x] := rfl
@[simp] theorem State.putSymbol_decOut (x : CP) : (s.putSymbol x).decOut = s.decOut := rfl
@[simp] theorem State.putSymbol_c2sOut (x : CP) : (s.putSymbol x).c2sOut = s.c2sOut := rfl
@[simp] theorem State.putSymbol_s2cOut (x : CP) : (s.putSymbol x).s2cOut = s.s2cOut := rfl
@[simp] theorem State.putSymbol_freeTick (x : CP) : (s.putSymbol x).freeTick = s.freeTick := rfl
@[simp] theorem State.putSymbol_encPort (x : CP) : (s.putSymbol x).encPort = s.encPort := rfl
@[simp] theorem State.putSymbol_decPort (x : CP) : (s.putSymbol x).decPort = s.decPort := rfl
@[simp] theorem State.putSymbol_byteSinkReady (x : CP) : (s.putSymbol x).byteSinkReady = s.byteSinkReady := rfl
@[simp] theorem State.putSymbol_host (x : CP) : (s.putSymbol x).host = s.host := rfl

/-! s.putByte b -/

@[simp] theorem State.putByte_encSt (b : Byte) : (s.putByte b).encSt = s.encSt := rfl
@[simp] theorem State.putByte_encErr (b : Byte) : (s.putByte b).encErr = s.encErr := rfl
@[simp] theorem State.putByte_encCur (b : Byte) : (s.putByte b).encCur = s.encCur := rfl
@[simp] theorem State.putByte_encVld (b : Byte) : (s.putByte b).encVld = s.encVld := rfl
@[simp] theorem State.putByte_encByte (b : Byte) : (s.putByte b).encByte = s.encByte := rfl
@[simp] theorem State.putByte_decSt (b : Byte) : (s.putByte b).decSt = s.decSt := rfl
@[simp] theorem State.putByte_decErr (b : Byte) : (s.putByte b).decErr = s.decErr := rfl
@[simp] theorem State.putByte_decCur (b : Byte) : (s.putByte b).decCur = s.decCur := rfl
@[simp] theorem State.putByte_decAcc (b : Byte) : (s.putByte b).decAcc = s.decAcc := rfl
@[simp] theorem State.putByte_encOut (b : Byte) : (s.putByte b).encOut = s.encOut := rfl
@[simp] theorem State.putByte_decOut (b : Byte) : (s.putByte b).decOut = s.decOut ++ [b] := rfl
@[simp] theorem State.putByte_c2sOut (b : Byte) : (s.putByte b).c2sOut = s.c2sOut := rfl
@[simp] theorem State.putByte_s2cOut (b : Byte) : (s.putByte b).s2cOut = s.s2cOut := rfl
@[simp] theorem State.putByte_freeTick (b : Byte) : (s.putByte b).freeTick = s.freeTick := rfl
@[simp] theorem State.putByte_encPort (b : Byte) : (s.putByte b).encPort = s.encPort := rfl
@[simp] theorem State.putByte_decPort (b : Byte) : (s.putByte b).decPort = s.decPort := rfl
@[simp] theorem State.putByte_byteSinkReady (b : Byte) : (s.putByte b).byteSinkReady = s.byteSinkReady := rfl
@[simp] theorem State.putByte_host (b : Byte) : (s.putByte b).host = s.host := rfl

/-! s.putC2s x -/

@[simp] theorem State.putC2s_encSt (x : CP) : (s.putC2s x).encSt = s.encSt := rfl
@[simp] theorem State.putC2s_encErr (x : CP) : (s.putC2s x).encErr = s.encErr := rfl
@[simp] theorem State.putC2s_encCur (x : CP) : (s.putC2s x).encCur = s.encCur := rfl
@[simp] theorem State.putC2s_encVld (x : CP) : (s.putC2s x).encVld = s.encVld := rfl
@[simp] theorem State.putC2s_encByte (x : CP) : (s.putC2s x).encByte = s.encByte := rfl
@[simp] theorem State.putC2s_decSt (x : CP) : (s.putC2s x).decSt = s.decSt := rfl
@[simp] theorem State.putC2s_decErr (x : CP) : (s.putC2s x).decErr = s.decErr := rfl
@[simp] theorem State.putC2s_decCur (x : CP) : (s.putC2s x).decCur = s.decCur := rfl
@[simp] theorem State.putC2s_decAcc (x : CP) : (s.putC2s x).decAcc = s.decAcc := rfl
@[simp] theorem State.putC2s_encOut (x : CP) : (s.putC2s x).encOut = s.encOut := rfl
@[simp] theorem State.putC2s_decOut (x : CP) : (s.putC2s x).decOut = s.decOut := rfl
@[simp] theorem State.putC2s_c2sOut (x : CP) : (s.putC2s x).c2sOut = s.c2sOut ++ [x] := rfl
@[simp] theorem State.putC2s_s2cOut (x : CP) : (s.putC2s x).s2cOut = s.s2cOut := rfl
@[simp] theorem State.putC2s_freeTick (x : CP) : (s.putC2s x).freeTick = s.freeTick := rfl
@[simp] theorem State.putC2s_encPort (x : CP) : (s.putC2s x).encPort = s.encPort := rfl
@[simp] theorem State.putC2s_decPort (x : CP) : (s.putC2s x).decPort = s.decPort := rfl
@[simp] theorem State.putC2s_byteSinkReady (x : CP) : (s.putC2s x).byteSinkReady = s.byteSinkReady := rfl
@[simp] theorem State.putC2s_host (x : CP) : (s.putC2s x).host = s.host := rfl

/-! s.putS2c r -/

@[simp] theorem State.putS2c_encSt (r : Option Code) : (s.putS2c r).encSt = s.encSt := rfl
@[simp] theorem State.putS2c_encErr (r : Option Code) : (s.putS2c r).encErr = s.encErr := rfl
@[simp] theorem State.putS2c_encCur (r : Option Code) : (s.putS2c r).encCur = s.encCur := rfl
@[simp] theorem State.putS2c_encVld (r : Option Code) : (s.putS2c r).encVld = s.encVld := rfl
@[simp] theorem State.putS2c_encByte (r : Option Code) : (s.putS2c r).encByte = s.encByte := rfl
@[simp] theorem State.putS2c_decSt (r : Option Code) : (s.putS2c r).decSt = s.decSt := rfl
@[simp] theorem State.putS2c_decErr (r : Option Code) : (s.putS2c r).decErr = s.decErr := rfl
@[simp] theorem State.putS2c_decCur (r : Option Code) : (s.putS2c r).decCur = s.decCur := rfl
@[simp] theorem State.putS2c_decAcc (r : Option Code) : (s.putS2c r).decAcc = s.decAcc := rfl
@[simp] theorem State.putS2c_encOut (r : Option Code) : (s.putS2c r).encOut = s.encOut := rfl
@[simp] theorem State.putS2c_decOut (r : Option Code) : (s.putS2c r).decOut = s.decOut := rfl
@[simp] theorem State.putS2c_c2sOut (r : Option Code) : (s.putS2c r).c2sOut = s.c2sOut := rfl
@[simp] theorem State.putS2c_s2cOut (r : Option Code) : (s.putS2c r).s2cOut = s.s2cOut ++ [s2cWord (Config.missCode s.freeTick) r] := rfl
@[simp] theorem State.putS2c_freeTick (r : Option Code) : (s.putS2c r).freeTick = if r.isSome then s.freeTick else s.freeTick + 1 := rfl
@[simp] theorem State.putS2c_encPort (r : Option Code) : (s.putS2c r).encPort = s.encPort := rfl
@[simp] theorem State.putS2c_decPort (r : Option Code) : (s.putS2c r).decPort = s.decPort := rfl
@[simp] theorem State.putS2c_byteSinkReady (r : Option Code) : (s.putS2c r).byteSinkReady = s.byteSinkReady := rfl
@[simp] theorem State.putS2c_host (r : Option Code) : (s.putS2c r).host = s.host := rfl

/-! s.raise .enc k -/

@[simp] theorem State.raiseEnc_encSt (k : ErrKind) : (s.raise .enc k).encSt = .fail := rfl
@[simp] theorem State.raiseEnc_encErr (k : ErrKind) : (s.raise .enc k).encErr = k := rfl
@[simp] theorem State.raiseEnc_encCur (k : ErrKind) : (s.raise .enc k).encCur = s.encCur := rfl
@[simp] theorem State.raiseEnc_encVld (k : ErrKind) : (s.raise .enc k).encVld = s.encVld := rfl
@[simp] theorem State.raiseEnc_encByte (k : ErrKind) : (s.raise .enc k).encByte = s.encByte := rfl
@[simp] theorem State.raiseEnc_decSt (k : ErrKind) : (s.raise .enc k).decSt = s.decSt := rfl
@[simp] theorem State.raiseEnc_decErr (k : ErrKind) : (s.raise .enc k).decErr = s.decErr := rfl
@[simp] theorem State.raiseEnc_decCur (k : ErrKind) : (s.raise .enc k).decCur = s.decCur := rfl
@[simp] theorem State.raiseEnc_decAcc (k : ErrKind) : (s.raise .enc k).decAcc = s.decAcc := rfl
@[simp] theorem State.raiseEnc_encOut (k : ErrKind) : (s.raise .enc k).encOut = s.encOut := rfl
@[simp] theorem State.raiseEnc_decOut (k : ErrKind) : (s.raise .enc k).decOut = s.decOut := rfl
@[simp] theorem State.raiseEnc_c2sOut (k : ErrKind) : (s.raise .enc k).c2sOut = s.c2sOut := rfl
@[simp] theorem State.raiseEnc_s2cOut (k : ErrKind) : (s.raise .enc k).s2cOut = s.s2cOut := rfl
@[simp] theorem State.raiseEnc_freeTick (k : ErrKind) : (s.raise .enc k).freeTick = s.freeTick := rfl
@[simp] theorem State.raiseEnc_encPort (k : ErrKind) : (s.raise .enc k).encPort = s.encPort := rfl
@[simp] theorem State.raiseEnc_decPort (k : ErrKind) : (s.raise .enc k).decPort = s.decPort := rfl
@[simp] theorem State.raiseEnc_byteSinkReady (k : ErrKind) : (s.raise .enc k).byteSinkReady = s.byteSinkReady := rfl
@[simp] theorem State.raiseEnc_host (k : ErrKind) : (s.raise .enc k).host = s.host := rfl

/-! s.raise .dec k -/

@[simp] theorem State.raiseDec_encSt (k : ErrKind) : (s.raise .dec k).encSt = s.encSt := rfl
@[simp] theorem State.raiseDec_encErr (k : ErrKind) : (s.raise .dec k).encErr = s.encErr := rfl
@[simp] theorem State.raiseDec_encCur (k : ErrKind) : (s.raise .dec k).encCur = s.encCur := rfl
@[simp] theorem State.raiseDec_encVld (k : ErrKind) : (s.raise .dec k).encVld = s.encVld := rfl
@[simp] theorem State.raiseDec_encByte (k : ErrKind) : (s.raise .dec k).encByte = s.encByte := rfl
@[simp] theorem State.raiseDec_decSt (k : ErrKind) : (s.raise .dec k).decSt = .fail := rfl
@[simp] theorem State.raiseDec_decErr (k : ErrKind) : (s.raise .dec k).decErr = k := rfl
@[simp] theorem State.raiseDec_decCur (k : ErrKind) : (s.raise .dec k).decCur = s.decCur := rfl
@[simp] theorem State.raiseDec_decAcc (k : ErrKind) : (s.raise .dec k).decAcc = s.decAcc := rfl
@[simp] theorem State.raiseDec_encOut (k : ErrKind) : (s.raise .dec k).encOut = s.encOut := rfl
@[simp] theorem State.raiseDec_decOut (k : ErrKind) : (s.raise .dec k).decOut = s.decOut := rfl
@[simp] theorem State.raiseDec_c2sOut (k : ErrKind) : (s.raise .dec k).c2sOut = s.c2sOut := rfl
@[simp] theorem State.raiseDec_s2cOut (k : ErrKind) : (s.raise .dec k).s2cOut = s.s2cOut := rfl
@[simp] theorem State.raiseDec_freeTick (k : ErrKind) : (s.raise .dec k).freeTick = s.freeTick := rfl
@[simp] theorem State.raiseDec_encPort (k : ErrKind) : (s.raise .dec k).encPort = s.encPort := rfl
@[simp] theorem State.raiseDec_decPort (k : ErrKind) : (s.raise .dec k).decPort = s.decPort := rfl
@[simp] theorem State.raiseDec_byteSinkReady (k : ErrKind) : (s.raise .dec k).byteSinkReady = s.byteSinkReady := rfl
@[simp] theorem State.raiseDec_host (k : ErrKind) : (s.raise .dec k).host = s.host := rfl

/-! s.openPass .enc -/

@[simp] theorem State.openEnc_encSt : (s.openPass .enc).encSt = .run := rfl
@[simp] theorem State.openEnc_encErr : (s.openPass .enc).encErr = .none := rfl
@[simp] theorem State.openEnc_encCur : (s.openPass .enc).encCur = 0 := rfl
@[simp] theorem State.openEnc_encVld : (s.openPass .enc).encVld = false := rfl
@[simp] theorem State.openEnc_encByte : (s.openPass .enc).encByte = s.encByte := rfl
@[simp] theorem State.openEnc_decSt : (s.openPass .enc).decSt = s.decSt := rfl
@[simp] theorem State.openEnc_decErr : (s.openPass .enc).decErr = s.decErr := rfl
@[simp] theorem State.openEnc_decCur : (s.openPass .enc).decCur = s.decCur := rfl
@[simp] theorem State.openEnc_decAcc : (s.openPass .enc).decAcc = s.decAcc := rfl
@[simp] theorem State.openEnc_encOut : (s.openPass .enc).encOut = s.encOut := rfl
@[simp] theorem State.openEnc_decOut : (s.openPass .enc).decOut = s.decOut := rfl
@[simp] theorem State.openEnc_c2sOut : (s.openPass .enc).c2sOut = s.c2sOut := rfl
@[simp] theorem State.openEnc_s2cOut : (s.openPass .enc).s2cOut = s.s2cOut := rfl
@[simp] theorem State.openEnc_freeTick : (s.openPass .enc).freeTick = s.freeTick := rfl
@[simp] theorem State.openEnc_encPort : (s.openPass .enc).encPort = s.encPort := rfl
@[simp] theorem State.openEnc_decPort : (s.openPass .enc).decPort = s.decPort := rfl
@[simp] theorem State.openEnc_byteSinkReady : (s.openPass .enc).byteSinkReady = s.byteSinkReady := rfl
@[simp] theorem State.openEnc_host : (s.openPass .enc).host = s.host := rfl

/-! s.openPass .dec -/

@[simp] theorem State.openDec_encSt : (s.openPass .dec).encSt = s.encSt := rfl
@[simp] theorem State.openDec_encErr : (s.openPass .dec).encErr = s.encErr := rfl
@[simp] theorem State.openDec_encCur : (s.openPass .dec).encCur = s.encCur := rfl
@[simp] theorem State.openDec_encVld : (s.openPass .dec).encVld = s.encVld := rfl
@[simp] theorem State.openDec_encByte : (s.openPass .dec).encByte = s.encByte := rfl
@[simp] theorem State.openDec_decSt : (s.openPass .dec).decSt = .run := rfl
@[simp] theorem State.openDec_decErr : (s.openPass .dec).decErr = .none := rfl
@[simp] theorem State.openDec_decCur : (s.openPass .dec).decCur = 0 := rfl
@[simp] theorem State.openDec_decAcc : (s.openPass .dec).decAcc = s.decAcc := rfl
@[simp] theorem State.openDec_encOut : (s.openPass .dec).encOut = s.encOut := rfl
@[simp] theorem State.openDec_decOut : (s.openPass .dec).decOut = s.decOut := rfl
@[simp] theorem State.openDec_c2sOut : (s.openPass .dec).c2sOut = s.c2sOut := rfl
@[simp] theorem State.openDec_s2cOut : (s.openPass .dec).s2cOut = s.s2cOut := rfl
@[simp] theorem State.openDec_freeTick : (s.openPass .dec).freeTick = s.freeTick := rfl
@[simp] theorem State.openDec_encPort : (s.openPass .dec).encPort = s.encPort := rfl
@[simp] theorem State.openDec_decPort : (s.openPass .dec).decPort = s.decPort := rfl
@[simp] theorem State.openDec_byteSinkReady : (s.openPass .dec).byteSinkReady = s.byteSinkReady := rfl
@[simp] theorem State.openDec_host : (s.openPass .dec).host = s.host := rfl

/-! s.finishPass .enc -/

@[simp] theorem State.finishEnc_encSt : (s.finishPass .enc).encSt = .done := rfl
@[simp] theorem State.finishEnc_encErr : (s.finishPass .enc).encErr = s.encErr := rfl
@[simp] theorem State.finishEnc_encCur : (s.finishPass .enc).encCur = s.encCur := rfl
@[simp] theorem State.finishEnc_encVld : (s.finishPass .enc).encVld = s.encVld := rfl
@[simp] theorem State.finishEnc_encByte : (s.finishPass .enc).encByte = s.encByte := rfl
@[simp] theorem State.finishEnc_decSt : (s.finishPass .enc).decSt = s.decSt := rfl
@[simp] theorem State.finishEnc_decErr : (s.finishPass .enc).decErr = s.decErr := rfl
@[simp] theorem State.finishEnc_decCur : (s.finishPass .enc).decCur = s.decCur := rfl
@[simp] theorem State.finishEnc_decAcc : (s.finishPass .enc).decAcc = s.decAcc := rfl
@[simp] theorem State.finishEnc_encOut : (s.finishPass .enc).encOut = s.encOut := rfl
@[simp] theorem State.finishEnc_decOut : (s.finishPass .enc).decOut = s.decOut := rfl
@[simp] theorem State.finishEnc_c2sOut : (s.finishPass .enc).c2sOut = s.c2sOut := rfl
@[simp] theorem State.finishEnc_s2cOut : (s.finishPass .enc).s2cOut = s.s2cOut := rfl
@[simp] theorem State.finishEnc_freeTick : (s.finishPass .enc).freeTick = s.freeTick := rfl
@[simp] theorem State.finishEnc_encPort : (s.finishPass .enc).encPort = s.encPort := rfl
@[simp] theorem State.finishEnc_decPort : (s.finishPass .enc).decPort = s.decPort := rfl
@[simp] theorem State.finishEnc_byteSinkReady : (s.finishPass .enc).byteSinkReady = s.byteSinkReady := rfl
@[simp] theorem State.finishEnc_host : (s.finishPass .enc).host = s.host := rfl

/-! s.finishPass .dec -/

@[simp] theorem State.finishDec_encSt : (s.finishPass .dec).encSt = s.encSt := rfl
@[simp] theorem State.finishDec_encErr : (s.finishPass .dec).encErr = s.encErr := rfl
@[simp] theorem State.finishDec_encCur : (s.finishPass .dec).encCur = s.encCur := rfl
@[simp] theorem State.finishDec_encVld : (s.finishPass .dec).encVld = s.encVld := rfl
@[simp] theorem State.finishDec_encByte : (s.finishPass .dec).encByte = s.encByte := rfl
@[simp] theorem State.finishDec_decSt : (s.finishPass .dec).decSt = .done := rfl
@[simp] theorem State.finishDec_decErr : (s.finishPass .dec).decErr = s.decErr := rfl
@[simp] theorem State.finishDec_decCur : (s.finishPass .dec).decCur = s.decCur := rfl
@[simp] theorem State.finishDec_decAcc : (s.finishPass .dec).decAcc = s.decAcc := rfl
@[simp] theorem State.finishDec_encOut : (s.finishPass .dec).encOut = s.encOut := rfl
@[simp] theorem State.finishDec_decOut : (s.finishPass .dec).decOut = s.decOut := rfl
@[simp] theorem State.finishDec_c2sOut : (s.finishPass .dec).c2sOut = s.c2sOut := rfl
@[simp] theorem State.finishDec_s2cOut : (s.finishPass .dec).s2cOut = s.s2cOut := rfl
@[simp] theorem State.finishDec_freeTick : (s.finishPass .dec).freeTick = s.freeTick := rfl
@[simp] theorem State.finishDec_encPort : (s.finishPass .dec).encPort = s.encPort := rfl
@[simp] theorem State.finishDec_decPort : (s.finishPass .dec).decPort = s.decPort := rfl
@[simp] theorem State.finishDec_byteSinkReady : (s.finishPass .dec).byteSinkReady = s.byteSinkReady := rfl
@[simp] theorem State.finishDec_host : (s.finishPass .dec).host = s.host := rfl

/-! s.emit -/

@[simp] theorem State.emit_encSt : (s.emit).encSt = s.encSt := rfl
@[simp] theorem State.emit_encErr : (s.emit).encErr = s.encErr := rfl
@[simp] theorem State.emit_encCur : (s.emit).encCur = s.encCur + 1 := rfl
@[simp] theorem State.emit_encVld : (s.emit).encVld = if s.encCur = 3 then false else s.encVld := rfl
@[simp] theorem State.emit_encByte : (s.emit).encByte = s.encByte := rfl
@[simp] theorem State.emit_decSt : (s.emit).decSt = s.decSt := rfl
@[simp] theorem State.emit_decErr : (s.emit).decErr = s.decErr := rfl
@[simp] theorem State.emit_decCur : (s.emit).decCur = s.decCur := rfl
@[simp] theorem State.emit_decAcc : (s.emit).decAcc = s.decAcc := rfl
@[simp] theorem State.emit_encOut : (s.emit).encOut = s.encOut ++ [codeToSymbol Config.sym (group s.encByte s.encCur)] := rfl
@[simp] theorem State.emit_decOut : (s.emit).decOut = s.decOut := rfl
@[simp] theorem State.emit_c2sOut : (s.emit).c2sOut = s.c2sOut := rfl
@[simp] theorem State.emit_s2cOut : (s.emit).s2cOut = s.s2cOut := rfl
@[simp] theorem State.emit_freeTick : (s.emit).freeTick = s.freeTick := rfl
@[simp] theorem State.emit_encPort : (s.emit).encPort = s.encPort := rfl
@[simp] theorem State.emit_decPort : (s.emit).decPort = s.decPort := rfl
@[simp] theorem State.emit_byteSinkReady : (s.emit).byteSinkReady = s.byteSinkReady := rfl
@[simp] theorem State.emit_host : (s.emit).host = s.host := rfl

/-! s.resetBlock -/

@[simp] theorem State.resetBlock_encSt : (s.resetBlock).encSt = .idle := rfl
@[simp] theorem State.resetBlock_encErr : (s.resetBlock).encErr = .none := rfl
@[simp] theorem State.resetBlock_encCur : (s.resetBlock).encCur = 0 := rfl
@[simp] theorem State.resetBlock_encVld : (s.resetBlock).encVld = false := rfl
@[simp] theorem State.resetBlock_encByte : (s.resetBlock).encByte = Config.dataReset := rfl
@[simp] theorem State.resetBlock_decSt : (s.resetBlock).decSt = .idle := rfl
@[simp] theorem State.resetBlock_decErr : (s.resetBlock).decErr = .none := rfl
@[simp] theorem State.resetBlock_decCur : (s.resetBlock).decCur = 0 := rfl
@[simp] theorem State.resetBlock_decAcc : (s.resetBlock).decAcc = Config.dataReset := rfl
@[simp] theorem State.resetBlock_encOut : (s.resetBlock).encOut = s.encOut := rfl
@[simp] theorem State.resetBlock_decOut : (s.resetBlock).decOut = s.decOut := rfl
@[simp] theorem State.resetBlock_c2sOut : (s.resetBlock).c2sOut = s.c2sOut := rfl
@[simp] theorem State.resetBlock_s2cOut : (s.resetBlock).s2cOut = s.s2cOut := rfl
@[simp] theorem State.resetBlock_freeTick : (s.resetBlock).freeTick = s.freeTick := rfl
@[simp] theorem State.resetBlock_encPort : (s.resetBlock).encPort = s.encPort := rfl
@[simp] theorem State.resetBlock_decPort : (s.resetBlock).decPort = s.decPort := rfl
@[simp] theorem State.resetBlock_byteSinkReady : (s.resetBlock).byteSinkReady = s.byteSinkReady := rfl
@[simp] theorem State.resetBlock_host : (s.resetBlock).host = s.host := rfl

end Sys2Proof.Machine
end

