-- ==== Sys2Proof/Laws/Exec.lean ====
section
/-! SUPPORT. What `exec` can do, said once. -/

namespace Sys2Proof.Machine

/-- The effect of each operation when it happens, gathered from its meaning. -/
def effect : Instr → State → State
  | .encPut b, s => { s with encByte := b, encVld := true }
  | .encEnd, s => s.finishPass .enc
  | .encIofail, s => s.raise .enc .ioFailure
  | .encStart, s => s.openPass .enc
  | .encEmit, s => s.emit
  | .decSym sym, s => s.takeSymbol sym
  | .decEnd, s => if s.decCur = 0 then s.finishPass .dec else s.raise .dec .truncatedStream
  | .decIofail, s => s.raise .dec .ioFailure
  | .decBad, s => s.raise .dec .malformedTextEncoding
  | .decStart, s => s.openPass .dec
  | .lutC2s c, s => s.putC2s (codeToSymbol Config.sym c)
  | .lutS2c x, s => s.putS2c (symbolToCode Config.sym x)

/-- Every operation answers a next state: its effect if it is enabled, else the same state. -/
theorem exec_eq (i : Instr) (s : State) :
    exec i s = .next (if enabled i s then effect i s else s) := by cases i <;> rfl

theorem after_eq (s : State) (i : Instr) : after s i = if enabled i s then effect i s else s := by
  simp only [after, exec_eq]

/-- `exec` and `after` name the same next state. -/
theorem exec_eq_after (i : Instr) (s : State) : exec i s = .next (after s i) := by
  rw [exec_eq, after_eq]

theorem exec_next_iff {i : Instr} {s t : State} : exec i s = .next t ↔ t = after s i := by
  rw [exec_eq_after]; exact ⟨fun h => (Host.Outcome.next.inj h).symm, fun h => h ▸ rfl⟩

theorem after_of_enabled {s : State} {i : Instr} (h : enabled i s = true) : after s i = effect i s := by
  rw [after_eq, if_pos h]

theorem after_of_not_enabled {s : State} {i : Instr} (h : enabled i s = false) : after s i = s := by
  rw [after_eq, h]; rfl

/-- One inversion for `exec`: nothing happened, or the operation was enabled and had its effect. -/
theorem exec_cases {i : Instr} {s t : State} (h : exec i s = .next t) :
    (enabled i s = false ∧ t = s) ∨ (enabled i s = true ∧ t = effect i s) := by
  rw [exec_next_iff] at h
  cases he : enabled i s
  · exact .inl ⟨rfl, h.trans (after_of_not_enabled he)⟩
  · exact .inr ⟨rfl, h.trans (after_of_enabled he)⟩

/-- Taking a symbol raises InvalidSymbol or takes its code at the cursor (R131). -/
theorem takeSymbol_cases (s : State) (x : CP) :
    (symbolToCode Config.sym x = none ∧ s.takeSymbol x = s.raise .dec .invalidSymbol) ∨
    (∃ c, symbolToCode Config.sym x = some c ∧ s.decCur = 3 ∧
      s.takeSymbol x = { s.putByte (s.decAcc ||| place c 3) with decCur := 0 }) ∨
    (∃ c, symbolToCode Config.sym x = some c ∧ s.decCur ≠ 3 ∧
      s.takeSymbol x = { s with decAcc := accumulate s.decAcc s.decCur c, decCur := s.decCur + 1 }) := by
  unfold State.takeSymbol
  cases hx : symbolToCode Config.sym x with
  | none => exact .inl ⟨rfl, rfl⟩
  | some c =>
    by_cases h3 : s.decCur = 3
    · exact .inr (.inl ⟨c, rfl, h3, if_pos h3⟩)
    · exact .inr (.inr ⟨c, rfl, h3, if_neg h3⟩)

/-- The look-ups work at any time in any status (R104). -/
@[simp] theorem enabled_lutC2s (c : Code) (s : State) : enabled (.lutC2s c) s = true := rfl
@[simp] theorem enabled_lutS2c (x : CP) (s : State) : enabled (.lutS2c x) s = true := rfl

@[simp] theorem play_nil (s : State) : play s [] = s := rfl
@[simp] theorem play_cons (s : State) (i : Instr) (rest : List Instr) :
    play s (i :: rest) = play (after s i) rest := rfl

theorem play_append (s : State) (a b : List Instr) : play s (a ++ b) = play (play s a) b :=
  List.foldl_append

end Sys2Proof.Machine
end

