-- ==== Sys2Proof/Laws/Lut.lean ====
section
/-! SUPPORT. The table of this build, and the two look-ups. -/

namespace Sys2Proof

/-- Numbers below `2 ^ CPW` are different `CP` values. -/
theorem ofNat_cp_ne {m n : Nat} (hm : m < 2 ^ Config.cpw) (hn : n < 2 ^ Config.cpw) (h : m ≠ n) :
    (BitVec.ofNat Config.cpw m) ≠ BitVec.ofNat Config.cpw n := by
  intro e
  have := congrArg BitVec.toNat e
  simp only [BitVec.toNat_ofNat, Nat.mod_eq_of_lt hm, Nat.mod_eq_of_lt hn] at this
  exact h this

/-- Every width has at least the four values of the alphabet (spec/00_scope.md R6). -/
theorem Config.four_le : 4 ≤ 2 ^ Config.cpw := by
  have := Nat.one_le_two_pow (n := Config.cpwExtra)
  simp only [Config.cpw, Nat.pow_add]
  omega

/-- The build's four symbols are pairwise distinct (spec/00_scope.md R5; log 2). -/
theorem Config.sym_wellFormed : Config.sym.WellFormed := by
  have four := Config.four_le
  have ne : ∀ m n : Nat, m < 4 → n < 4 → m ≠ n →
      Config.symPerm (BitVec.ofNat _ m) ≠ Config.symPerm (BitVec.ofNat _ n) := fun m n hm hn h e =>
    ofNat_cp_ne (by omega) (by omega) h (Config.symPerm.injective e)
  exact ⟨ne 0 1 (by decide) (by decide) (by decide), ne 0 2 (by decide) (by decide) (by decide),
    ne 0 3 (by decide) (by decide) (by decide), ne 1 2 (by decide) (by decide) (by decide),
    ne 1 3 (by decide) (by decide) (by decide), ne 2 3 (by decide) (by decide) (by decide)⟩

namespace Machine

/-- The first entry reads back as code 0 whatever the table holds. -/
theorem symbolToCode_first {w : Nat} (t : SymTable w) : symbolToCode t t.s0 = some 0 := if_pos rfl

/-- A value of `CP` that is no symbol of this build, wherever `CPW` leaves room for a fifth value. -/
def outsider : CP := Config.symPerm 4

/-- With `CPW` = 2 the alphabet is all of `CP`; with any other `CPW` of R6 there is a value outside. -/
theorem outsider_ne (wide : 2 < Config.cpw) (c : Code) : codeToSymbol Config.sym c ≠ outsider := by
  have eight : 8 ≤ 2 ^ Config.cpw := Nat.pow_le_pow_right (n := 2) (by decide) wide
  have ne : ∀ m : Nat, m < 4 → Config.symPerm (BitVec.ofNat _ m) ≠ outsider := fun m hm e =>
    ofNat_cp_ne (n := 4) (by omega) (by omega) (by omega) (Config.symPerm.injective e)
  unfold codeToSymbol
  split
  · exact ne 0 (by decide)
  · exact ne 1 (by decide)
  · exact ne 2 (by decide)
  · exact ne 3 (by decide)

theorem symbolToCode_outsider (wide : 2 < Config.cpw) : symbolToCode Config.sym outsider = none := by
  have ne := outsider_ne wide
  unfold symbolToCode
  rw [if_neg (show outsider ≠ Config.sym.s0 from (ne 0).symm),
    if_neg (show outsider ≠ Config.sym.s1 from (ne 1).symm),
    if_neg (show outsider ≠ Config.sym.s2 from (ne 2).symm),
    if_neg (show outsider ≠ Config.sym.s3 from (ne 3).symm)]

/-- A code names one of the four entries. -/
theorem code_cases (c : Code) : c = 0 ∨ c = 1 ∨ c = 2 ∨ c = 3 := by revert c; decide

/-- The entry of each code (R101). -/
@[simp] theorem codeToSymbol_zero {w : Nat} (t : SymTable w) : codeToSymbol t 0#2 = t.s0 := rfl
@[simp] theorem codeToSymbol_one {w : Nat} (t : SymTable w) : codeToSymbol t 1#2 = t.s1 := rfl
@[simp] theorem codeToSymbol_two {w : Nat} (t : SymTable w) : codeToSymbol t 2#2 = t.s2 := rfl
@[simp] theorem codeToSymbol_three {w : Nat} (t : SymTable w) : codeToSymbol t 3#2 = t.s3 := rfl

end Machine

end Sys2Proof
end

