-- ==== Sys2Proof/Laws/PerInstr.lean ====
section
/-! SUPPORT. One lemma per constructor: the word an operation encodes to stands on that operation's
port and its kind is not reserved (spec/30_encoding.md R80, R86). -/

namespace Sys2Proof.Laws.Encoding

/-- The encoded word is on the operation's port and selects an operation. -/
def Statement (i : Instr) : Prop := portOfWord (encode i) = portOf i ∧ (encode i).wellFormed = true

theorem encPut (b : Byte) : Statement (.encPut b) :=
  ⟨rfl, by
    have h : (encWord 0 b).extractLsb' 8 3 = 0 := encKind_encWord 0 b
    simp only [encode, PortWord.wellFormed, h]; decide⟩
theorem encEnd : Statement .encEnd := ⟨rfl, by decide⟩
theorem encIofail : Statement .encIofail := ⟨rfl, by decide⟩
theorem encStart : Statement .encStart := ⟨rfl, by decide⟩
theorem encEmit : Statement .encEmit := ⟨rfl, rfl⟩
theorem decSym (s : CP) : Statement (.decSym s) := ⟨rfl, rfl⟩
theorem decEnd : Statement .decEnd := ⟨rfl, by decide⟩
theorem decIofail : Statement .decIofail := ⟨rfl, by decide⟩
theorem decBad : Statement .decBad := ⟨rfl, by decide⟩
theorem decStart : Statement .decStart := ⟨rfl, by decide⟩
theorem lutC2s (c : Code) : Statement (.lutC2s c) := ⟨rfl, rfl⟩
theorem lutS2c (s : CP) : Statement (.lutS2c s) := ⟨rfl, rfl⟩

end Sys2Proof.Laws.Encoding
end

