-- ==== Sys2Proof/Laws/Step.lean ====
section
/-! SUPPORT. What a step can do, said once. -/

namespace Sys2Proof.Machine

/-- A turn that is no event resets the block, or changes nothing but the environment. -/
theorem quiet_cases {s t : State} (h : nextTurn s = .quiet t) :
    (∃ rest, t = { s.resetBlock with host := rest }) ∨
    (∃ p q r rest, t = { s with encPort := p, decPort := q, byteSinkReady := r, host := rest }) := by
  unfold nextTurn at h
  split at h
  · cases h; exact .inr ⟨_, _, _, _, rfl⟩
  · rename_i a rest _
    have event : ∀ (w : PortWord) (u : State), eventOf w u ≠ .quiet t := by
      intro w u he; unfold eventOf at he; split at he <;> cases he
    cases a <;> simp only [turnOf] at h
    case serveEnc => split at h <;> first | exact absurd h (event _ _) | (cases h; exact .inr ⟨_, _, _, _, rfl⟩)
    case serveDec => split at h <;> first | exact absurd h (event _ _) | (cases h; exact .inr ⟨_, _, _, _, rfl⟩)
    case takeSymbol => exact absurd h (event _ _)
    case lookC2s => exact absurd h (event _ _)
    case lookS2c => exact absurd h (event _ _)
    case reset => cases h; exact .inl ⟨_, rfl⟩
    all_goals cases h; exact .inr ⟨_, _, _, _, rfl⟩

/-- An event is offered in the state it met, less the host's act. -/
theorem event_cases {s t : State} {i : Instr} (h : nextTurn s = .event i t) :
    ∃ rest, t = { s with host := rest } := by
  have event : ∀ (w : PortWord) (u : State), eventOf w u = .event i t → t = u := by
    intro w u he; unfold eventOf at he; split at he <;> cases he; rfl
  unfold nextTurn at h
  split at h
  · cases h
  · rename_i a rest _
    refine ⟨rest, ?_⟩
    cases a <;> simp only [turnOf] at h
    case serveEnc => split at h <;> first | exact event _ _ h | cases h
    case serveDec => split at h <;> first | exact event _ _ h | cases h
    case takeSymbol => exact event _ _ h
    case lookC2s => exact event _ _ h
    case lookS2c => exact event _ _ h
    all_goals cases h

/-- The end of an event touches the two input ports alone. -/
theorem release_cases (i : Instr) (u t : State) :
    ∃ p q, release i u t = { t with encPort := p, decPort := q } := by
  unfold release
  split
  · cases portOf i <;> exact ⟨_, _, rfl⟩
  · exact ⟨_, _, rfl⟩

/-- One inversion for `step`: a reset, a change of the environment alone, or one event of the block in
the state it met, followed by a change of the environment alone. -/
theorem step_cases {s t : State} (h : step s = .next t) :
    (∃ rest, t = { s.resetBlock with host := rest }) ∨
    (∃ p q r rest, t = { s with encPort := p, decPort := q, byteSinkReady := r, host := rest }) ∨
    (∃ i rest p q, t = { after { s with host := rest } i with encPort := p, decPort := q }) := by
  unfold step at h
  split at h
  · rename_i u hu
    cases h
    rcases quiet_cases hu with h | h
    · exact .inl h
    · exact .inr (.inl h)
  · rename_i i u hu
    obtain ⟨rest, rfl⟩ := event_cases hu
    rw [exec_eq_after] at h
    obtain ⟨p, q, hr⟩ := release_cases i { s with host := rest } (after { s with host := rest } i)
    simp only [conclude, hr] at h
    cases h
    exact .inr (.inr ⟨i, rest, p, q, rfl⟩)
  · cases h

end Sys2Proof.Machine
end

