-- ==== Sys2Proof/Tests/Slice0.lean ====
section
/-! SUPPORT. Tests of single definitions, with expected values from spec/95_test_vectors.md and the worked
examples of the rules, and for every statement with hypotheses a witness that something meets them. -/

namespace Sys2Proof.Tests

open Sys2Proof Sys2Proof.Machine

/-- The table `SYM_B4` of spec/95_test_vectors.md, with `CPW = 21` as there. -/
def symB4 : SymTable 21 := ⟨0x30, 0x31, 0x32, 0x33⟩

/-- The table `SYM_WIDE` of spec/95_test_vectors.md. -/
def symWide : SymTable 21 := ⟨0x3042, 0x3044, 0x3046, 0x3048⟩

/-- An encoder state in the notation `(st, err, cur, vld, byte)` of spec/95_test_vectors.md. -/
def encAt (st : Status) (err : ErrKind) (cur : Code) (vld : Bool) (byte : Byte) : State :=
  { State.reset with encSt := st, encErr := err, encCur := cur, encVld := vld, encByte := byte }

/-- A decoder state in the notation `(st, err, cur, acc)` of spec/95_test_vectors.md. -/
def decAt (st : Status) (err : ErrKind) (cur : Code) (acc : Byte) : State :=
  { State.reset with decSt := st, decErr := err, decCur := cur, decAcc := acc }

/-- The same state with a byte sink that takes nothing. -/
def blocked (s : State) : State := { s with byteSinkReady := false }

/-- The same state with these acts of the host to come. -/
def withHost (s : State) (acts : List HostAct) : State := { s with host := acts }

/-! ## Well-formedness: one ill-formed term for each check -/

/-- R203: a table with any two equal entries is refused, whichever two they are. -/
theorem test_wf_table : symB4.WellFormed ∧ symWide.WellFormed ∧
    ¬ (SymTable.mk 1 1 2 (3 : BitVec 21)).WellFormed ∧ ¬ (SymTable.mk 1 2 1 (3 : BitVec 21)).WellFormed ∧
    ¬ (SymTable.mk 1 2 3 (1 : BitVec 21)).WellFormed ∧ ¬ (SymTable.mk 1 2 2 (3 : BitVec 21)).WellFormed ∧
    ¬ (SymTable.mk 1 2 3 (2 : BitVec 21)).WellFormed ∧ ¬ (SymTable.mk 1 2 3 (3 : BitVec 21)).WellFormed :=
  ⟨by decide, by decide, by decide, by decide, by decide, by decide, by decide, by decide⟩

/-- Section 2.8: the reserved words of `ENC_EW`. -/
theorem test_wf_encWord : ((PortWord.encEw 0x300).wellFormed || (PortWord.encEw 0x500).wellFormed ||
    (PortWord.encEw 0x600).wellFormed || (PortWord.encEw 0x700).wellFormed ||
    (PortWord.encEw 0x7FF).wellFormed) = false ∧ (PortWord.encEw 0x4FF).wellFormed = true := by decide

/-- Section 2.8: the reserved words of `DEC_EW`. -/
theorem test_wf_decWord : ((PortWord.decEw (tableDecWord 0xA00000)).wellFormed ||
    (PortWord.decEw (tableDecWord 0xC00000)).wellFormed || (PortWord.decEw (tableDecWord 0xE00000)).wellFormed ||
    (PortWord.decEw (tableDecWord 0xFFFFFF)).wellFormed) = false ∧
    (PortWord.decEw (tableDecWord 0x1FFFFF)).wellFormed = true := by decide

/-! ## Decoding: each constructor from a word written out from R74 to R77, R86 and section 2.8 -/

theorem test_decode_encPut : decode (.encEw 0b000_01001011) = .ok (.encPut 0x4B) := rfl
theorem test_decode_encEnd : decode (.encEw 0b001_10100101) = .ok .encEnd := rfl
theorem test_decode_encIofail : decode (.encEw 0b010_00000000) = .ok .encIofail := rfl
theorem test_decode_encStart : decode (.encEw 0b100_11111111) = .ok .encStart := rfl
theorem test_decode_encEmit : decode .symbolTaken = .ok .encEmit := rfl
/-- 21 bits taken to the width of the build. -/
theorem test_decode_decSym : decodeTableWord 24 0b000_100001111111111111111 =
    some (.decSym ((0x10FFFF : BitVec 21).setWidth Config.cpw)) := rfl
theorem test_decode_decEnd : decodeTableWord 24 0b001_000000000000000000000 = some .decEnd := rfl
theorem test_decode_decIofail : decodeTableWord 24 0b010_000000000000000000000 = some .decIofail := rfl
theorem test_decode_decBad : decodeTableWord 24 0b011_000000000000000000000 = some .decBad := rfl
theorem test_decode_decStart : decodeTableWord 24 0b100_000000000000000110001 = some .decStart := rfl
theorem test_decode_lutC2s : decode (.c2sIn 0b10) = .ok (.lutC2s 2) := rfl
theorem test_decode_lutS2c : decodeTableWord 21 0b000000011000001000010 = some (.lutS2c 0x3042) := rfl

/-- R75: with any `CPW` the kind is the three wires above the symbol value's. -/
theorem test_decode_decWires (x : CP) : decode (.decEw (decWordOfBits (0b000#3 ++ x))) = .ok (.decSym x) ∧
    decode (.decEw (decWordOfBits (0b100#3 ++ x))) = .ok .decStart := by
  simp [decode, decodeDec]

/-- Section 2.8: reserved words are named as such. -/
theorem test_decode_reserved : decode (.encEw 0x5FF) = .error (.reservedEncKind 5) ∧
    decode (.decEw (tableDecWord 0xFFFFFF)) = .error (.reservedDecKind 7) := ⟨rfl, rfl⟩

/-- The encoder writes the words of the programs P1 and P2. -/
theorem test_encode_words : encode .encStart = .encEw 0x400 ∧ encode (.encPut 0x48) = .encEw 0x048 ∧
    encode .encEnd = .encEw 0x100 ∧ encode .encIofail = .encEw 0x200 ∧
    encode .decStart = .decEw ⟨4, 0⟩ ∧ encode (.decSym 0x31) = .decEw ⟨0, 0x31⟩ ∧
    encode .decEnd = .decEw ⟨1, 0⟩ ∧ encode .decIofail = .decEw ⟨2, 0⟩ ∧
    encode .decBad = .decEw ⟨3, 0⟩ := ⟨rfl, rfl, rfl, rfl, rfl, rfl, rfl, rfl, rfl⟩

/-- The match values of R86, read as table words. -/
theorem test_decodeTableWord : decodeTableWord 16 0x000 = some (.encPut 0) ∧
    decodeTableWord 16 0x100 = some .encEnd ∧ decodeTableWord 16 0x400 = some .encStart ∧
    decodeTableWord 24 0x000000 = some (.decSym ((0 : BitVec 21).setWidth Config.cpw)) ∧ decodeTableWord 24 0x600000 = some .decBad ∧
    decodeTableWord 8 2 = some (.lutC2s 2) ∧ decodeTableWord 21 0x30 = some (.lutS2c 0x30) ∧
    decodeTableWord 16 0x300 = none ∧ decodeTableWord 16 0x800 = none :=
  ⟨rfl, rfl, rfl, rfl, rfl, rfl, rfl, rfl, rfl⟩

/-- A START word placed after reset opens a pass in the very next step (R110). -/
theorem test_withFetchWord :
    step (State.reset.withFetchWord 16 0x400) = .next (encAt .run .none 0 false 0) ∧
    step (State.reset.withFetchWord 24 0x800000) = .next (decAt .run .none 0 0) := ⟨rfl, rfl⟩

/-! ## The data path, sections 2.1, 2.2 and 2.5 -/

/-- Section 2.1, hits and misses of the symbol-to-code look-up. -/
theorem test_s2c_vectors : symbolToCode symB4 0x32 = some 2 ∧ symbolToCode symB4 0x34 = none ∧
    symbolToCode symB4 0x2F = none ∧ symbolToCode symB4 0x0A = none ∧ symbolToCode symB4 0x20 = none ∧
    symbolToCode symB4 0x100030 = none ∧ symbolToCode symWide 0x3046 = some 2 ∧
    symbolToCode symWide 0x3043 = none ∧ symbolToCode symWide 0x42 = none ∧
    codeToSymbol symWide 1 = 0x3044 ∧ s2cWord 0 (symbolToCode symB4 0x32) = 0b110 := by decide

/-- Section 2.2: the bytes that tell group order and bit order apart. -/
theorem test_encodeByte_vectors : encodeByte symB4 0x4B = [0x31, 0x30, 0x32, 0x33] ∧
    encodeByte symB4 0x01 = [0x30, 0x30, 0x30, 0x31] ∧ encodeByte symB4 0x40 = [0x31, 0x30, 0x30, 0x30] ∧
    encodeByte symB4 0x80 = [0x32, 0x30, 0x30, 0x30] ∧
    encodeByte symWide 0xE4 = [0x3048, 0x3046, 0x3044, 0x3042] := by decide

/-- Section 2.5: outputs and results of whole passes. -/
theorem test_decodeStream_vectors :
    decodeStream symB4 [0x31, 0x30, 0x32, 0x30, 0x31, 0x32, 0x32, 0x31] = ([0x48, 0x69], .ok) ∧
    decodeStream symB4 [0x31, 0x30, 0x32] = ([], .err .truncatedStream) ∧
    decodeStream symB4 [0x31, 0x30, 0x32, 0x33, 0x31, 0x30] = ([0x4B], .err .truncatedStream) ∧
    decodeStream symB4 [0x31, 0x30, 0x32, 0x34] = ([], .err .invalidSymbol) ∧
    decodeStream symB4 [0x31, 0x30, 0x32, 0x33, 0x0A] = ([0x4B], .err .invalidSymbol) ∧
    decodeStream symB4 [0x31, 0x78] = ([], .err .invalidSymbol) := ⟨rfl, rfl, rfl, rfl, rfl, rfl⟩

/-- Section 2.9: status words. -/
theorem test_status_words : (encAt .run .none 1 true 0x4B).encStatus = 0xA1 ∧
    (encAt .fail .ioFailure 2 true 0xE4).encStatus = 0xC7 ∧ (encAt .done .none 0 false 0).encStatus = 0x02 ∧
    (decAt .run .none 3 0x48).decStatus = 0x61 ∧ (decAt .fail .truncatedStream 2 0x40).decStatus = 0x53 ∧
    (decAt .fail .malformedTextEncoding 3 0x48).decStatus = 0x6F := by decide

/-! ## One operation on one state: sections 2.3 to 2.5 -/

theorem test_encStart_after_fail :
    exec .encStart (encAt .fail .ioFailure 2 true 0xE4) = .next (encAt .run .none 0 false 0xE4) := rfl
theorem test_encPut : exec (.encPut 0x4B) (encAt .run .none 0 false 0) = .next (encAt .run .none 0 true 0x4B) :=
  rfl
theorem test_encPut_waits :
    exec (.encPut 0x00) (encAt .run .none 2 true 0x4B) = .next (encAt .run .none 2 true 0x4B) := rfl
theorem test_encEmit_first : exec .encEmit (encAt .run .none 0 true 0x4B) =
    .next { encAt .run .none 1 true 0x4B with encOut := [Config.sym.s1] } := rfl
theorem test_encEmit_last : exec .encEmit (encAt .run .none 3 true 0x4B) =
    .next { encAt .run .none 0 false 0x4B with encOut := [Config.sym.s3] } := rfl
theorem test_encEnd : exec .encEnd (encAt .run .none 0 false 0x69) = .next (encAt .done .none 0 false 0x69) :=
  rfl
theorem test_encEnd_waits :
    exec .encEnd (encAt .run .none 2 true 0x4B) = .next (encAt .run .none 2 true 0x4B) := rfl
theorem test_encIofail :
    exec .encIofail (encAt .run .none 2 true 0xE4) = .next (encAt .fail .ioFailure 2 true 0xE4) := rfl
theorem test_decStart_after_fail :
    exec .decStart (decAt .fail .invalidSymbol 1 0x40) = .next (decAt .run .none 0 0x40) := rfl
/-- Section 2.4: the first symbol of a run overwrites a stale accumulator. -/
theorem test_decSym_first : exec (.decSym Config.sym.s0) (decAt .run .none 0 0xFF) =
    .next (decAt .run .none 1 0x00) := by
  simp [exec, execDecSym, accept, enabled, handsByte, State.takeSymbol, State.takeCode, accumulate, place,
    symbolToCode_first, decAt]
/-- Section 2.5, `102x`: no byte for the offending group. -/
theorem test_decSym_invalid (wide : 2 < Config.cpw) : exec (.decSym outsider) (decAt .run .none 3 0x48) =
    .next (decAt .fail .invalidSymbol 3 0x48) := by
  simp [exec, execDecSym, accept, enabled, handsByte, State.takeSymbol, State.raise,
    symbolToCode_outsider wide, decAt]
theorem test_decEnd : exec .decEnd (decAt .run .none 0 0x68) = .next (decAt .done .none 0 0x68) := rfl
theorem test_decEnd_truncated :
    exec .decEnd (decAt .run .none 2 0x40) = .next (decAt .fail .truncatedStream 2 0x40) := rfl
theorem test_decBad :
    exec .decBad (decAt .run .none 3 0x48) = .next (decAt .fail .malformedTextEncoding 3 0x48) := rfl
theorem test_decIofail :
    exec .decIofail (decAt .run .none 2 0x40) = .next (decAt .fail .ioFailure 2 0x40) := rfl
theorem test_lutC2s : exec (.lutC2s 2) State.reset =
    .next { State.reset with c2sOut := [Config.sym.s2] } := rfl
theorem test_lutS2c_hit : exec (.lutS2c Config.sym.s0) State.reset =
    .next { State.reset with s2cOut := [0b100] } := by
  simp [exec, execLutS2c, accept, State.putS2c, s2cWord, symbolToCode_first, State.reset]
/-- P6, step 8: reset from any state. -/
theorem test_reset : step (withHost (encAt .done .none 0 false 0xE4) [.reset]) = .next State.reset := rfl

/-! ## Witnesses: states and operands that meet the hypotheses of each statement -/

theorem test_witness_WordsSelectByMaskAndMatch :
    (0x04B : BitVec 11) &&& 0x700 = 0x000 ∧ (0x1A5 : BitVec 11) &&& 0x700 = 0x100 ∧
    (0x200 : BitVec 11) &&& 0x700 = 0x200 ∧ (0x4FF : BitVec 11) &&& 0x700 = 0x400 ∧
    (0x3FF : BitVec 11) &&& 0x700 = 0x300 ∧ (0x500 : BitVec 11) &&& 0x700 = 0x500 ∧
    (0x600 : BitVec 11) &&& 0x700 = 0x600 ∧ (0x7FF : BitVec 11) &&& 0x700 = 0x700 ∧
    (0x1FFFFF : BitVec 24) &&& 0xE00000 = 0x000000 ∧ (0x200000 : BitVec 24) &&& 0xE00000 = 0x200000 ∧
    (0x5FFFFF : BitVec 24) &&& 0xE00000 = 0x400000 ∧ (0x600000 : BitVec 24) &&& 0xE00000 = 0x600000 ∧
    (0x800031 : BitVec 24) &&& 0xE00000 = 0x800000 ∧ (0xBFFFFF : BitVec 24) &&& 0xE00000 = 0xA00000 ∧
    (0xC00000 : BitVec 24) &&& 0xE00000 = 0xC00000 ∧ (0xFFFFFF : BitVec 24) &&& 0xE00000 = 0xE00000 := by
  decide

/-- For every kind a word of the build's own width whose bits under the mask are that kind, with any
symbol value below them. -/
theorem test_witness_WordsSelectByMaskAndMatch_anyWidth (k : Kind) (x : CP) :
    (k ++ x) &&& (7#3 ++ 0#Config.cpw) = k ++ 0#Config.cpw := by
  rw [BitVec.and_append]
  congr 1
  · revert k; decide
  · exact BitVec.and_zero

theorem test_witness_PayloadIsIgnoredWithoutData : (1 : Kind) ≠ 0 ∧ (7 : Kind) ≠ 0 := by decide

theorem test_witness_ReservedKindsAreRefused :
    (∀ w ∈ ([0x300, 0x5FF, 0x600, 0x7FF] : List EncWord), ∃ s : State,
      s.host = .serveEnc :: [] ∧ s.encPort = some w ∧ EncKindReserved (w.extractLsb' 8 3)) ∧
    (∀ k ∈ ([5, 6, 7] : List Kind), ∃ (s : State) (w : DecWord),
      s.host = .serveDec :: [] ∧ s.decPort = some w ∧ w.kind = k ∧ DecKindReserved w.kind) :=
  ⟨fun w hw => ⟨{ State.reset with host := [.serveEnc], encPort := some w }, rfl, rfl, by
      rcases hw with _ | ⟨_, _ | ⟨_, _ | ⟨_, _ | ⟨_, h⟩⟩⟩⟩ <;> first | decide | cases h⟩,
    fun k hk => ⟨{ State.reset with host := [.serveDec], decPort := some ⟨k, 0⟩ }, ⟨k, 0⟩, rfl, rfl, rfl, by
      revert k; decide⟩⟩

/-! A build with `CPW` = 2 has no value outside the alphabet, and nothing in Lean knows this build's `CPW`
(R6). So the witnesses that need such a value say `2 < Config.cpw`: they are for every other build. -/

theorem test_witness_SymbolTableIsABijection (wide : 2 < Config.cpw) : symbolToCode Config.sym outsider = none ∧
    codeToSymbol Config.sym 3 = codeToSymbol Config.sym 3 := ⟨symbolToCode_outsider wide, rfl⟩

theorem test_witness_LookUpsAreInverse : symB4.WellFormed ∧
    ((0x34 : BitVec 21) ≠ symB4.s0 ∧ (0x34 : BitVec 21) ≠ symB4.s1 ∧ (0x34 : BitVec 21) ≠ symB4.s2 ∧
      (0x34 : BitVec 21) ≠ symB4.s3) ∧
    symbolToCode symB4 0x33 = some 3 := by decide

theorem test_witness_SymbolLookUpAnswersTheCode (wide : 2 < Config.cpw) :
    ∃ x : CP, ∀ (c : Code), codeToSymbol Config.sym c ≠ x := ⟨outsider, outsider_ne wide⟩

theorem test_witness_EncStartOpensAPass :
    (encAt .idle .none 0 false 0).encSt ≠ .run ∧ (encAt .done .none 0 false 0).encSt ≠ .run ∧
    (encAt .fail .ioFailure 2 true 0).encSt ≠ .run ∧
    exec .encStart (encAt .run .none 1 true 0) = .next (encAt .run .none 1 true 0) :=
  ⟨by decide, by decide, by decide, rfl⟩

theorem test_witness_EncPutTakesTheByte :
    ((encAt .run .none 0 false 0).encSt = .run ∧ (encAt .run .none 0 false 0).encVld = false) ∧
    exec (.encPut 1) (encAt .run .none 3 true 0) = .next (encAt .run .none 3 true 0) ∧
    exec (.encPut 1) (encAt .done .none 0 false 0) = .next (encAt .done .none 0 false 0) :=
  ⟨by decide, rfl, rfl⟩

theorem test_witness_EncEmitSendsTheNextSymbol :
    (∀ c : Code, (encAt .run .none c true 0x4B).encSt = .run ∧ (encAt .run .none c true 0x4B).encVld = true ∧
      (encAt .run .none c true 0x4B).encCur = c) ∧
    exec .encEmit (encAt .run .none 0 false 0) = .next (encAt .run .none 0 false 0) ∧
    exec .encEmit (encAt .fail .ioFailure 2 true 0xE4) = .next (encAt .fail .ioFailure 2 true 0xE4) :=
  ⟨fun _ => ⟨rfl, rfl, rfl⟩, rfl, rfl⟩

theorem test_witness_EncEndFinishesThePass :
    ((encAt .run .none 0 false 0).encSt = .run ∧ (encAt .run .none 0 false 0).encVld = false) ∧
    exec .encEnd (encAt .run .none 2 true 0) = .next (encAt .run .none 2 true 0) ∧
    exec .encEnd State.reset = .next State.reset := ⟨by decide, rfl, rfl⟩

theorem test_witness_EncIofailFailsThePass : (encAt .run .none 2 true 0).encSt = .run ∧
    exec .encIofail State.reset = .next State.reset := ⟨rfl, rfl⟩

theorem test_witness_DecStartOpensAPass :
    (decAt .idle .none 0 0).decSt ≠ .run ∧ (decAt .done .none 0 0).decSt ≠ .run ∧
    (decAt .fail .truncatedStream 3 0x48).decSt ≠ .run ∧
    exec .decStart (decAt .run .none 1 0x40) = .next (decAt .run .none 1 0x40) :=
  ⟨by decide, by decide, by decide, rfl⟩

/-- A symbol of the alphabet at every cursor with a sink that takes the byte, at cursor 3 with one that
does not, and a value outside the alphabet. -/
theorem test_witness_DecSymTakesOrRejectsTheSymbol :
    symbolToCode Config.sym Config.sym.s0 = some 0 ∧
    (2 < Config.cpw → symbolToCode Config.sym outsider = none) ∧
    (∀ c : Code, (decAt .run .none c 0).decSt = .run ∧ (decAt .run .none c 0).decCur = c ∧
      (decAt .run .none c 0).byteSinkReady = true) ∧
    ((blocked (decAt .run .none 3 0)).decCur = 3 ∧ (blocked (decAt .run .none 3 0)).byteSinkReady = false ∧
      exec (.decSym Config.sym.s0) (blocked (decAt .run .none 3 0)) = .next (blocked (decAt .run .none 3 0))) ∧
    exec (.decSym Config.sym.s0) State.reset = .next State.reset := by
  refine ⟨symbolToCode_first _, symbolToCode_outsider, fun _ => ⟨rfl, rfl, rfl⟩, ⟨rfl, rfl, ?_⟩, ?_⟩
  · rw [exec_eq_after, after_of_not_enabled]
    simp [enabled, handsByte, symbolToCode_first, blocked, decAt]
  · rw [exec_eq_after, after_of_not_enabled rfl]

theorem test_witness_DecEndFinishesOrReportsTruncation :
    ((decAt .run .none 0 0).decSt = .run ∧ (decAt .run .none 0 0).decCur = 0) ∧
    ((decAt .run .none 1 0).decCur ≠ 0 ∧ (decAt .run .none 3 0).decCur ≠ 0) ∧
    exec .decEnd State.reset = .next State.reset := ⟨by decide, by decide, rfl⟩

theorem test_witness_DecBadFailsThePass : (decAt .run .none 3 0x48).decSt = .run ∧
    exec .decBad State.reset = .next State.reset := ⟨rfl, rfl⟩

theorem test_witness_DecIofailFailsThePass : (decAt .run .none 2 0x40).decSt = .run ∧
    exec .decIofail State.reset = .next State.reset := ⟨rfl, rfl⟩

theorem test_witness_ResetActPutsBothUnitsToIdle :
    (withHost (encAt .run .none 2 true 0xE4) [.reset, .pause]).host = .reset :: [.pause] := rfl

/-- States with a result of either kind, an operation on each that is not that unit's START, and states
that meet the invariants with a pass done. -/
theorem test_witness_ResultIsStableUntilTheNextStart :
    ((encAt .done .none 0 false 0).encResult = some .ok ∧
      exec .encIofail (encAt .done .none 0 false 0) = .next (encAt .done .none 0 false 0)) ∧
    ((decAt .fail .truncatedStream 2 0x40).decResult = some (.err .truncatedStream) ∧
      exec .decEnd (decAt .fail .truncatedStream 2 0x40) = .next (decAt .fail .truncatedStream 2 0x40)) ∧
    EncoderInvariant (encAt .done .none 0 false 0) ∧ DecoderInvariant (decAt .done .none 0 0x68) :=
  ⟨⟨rfl, rfl⟩, ⟨rfl, rfl⟩, ⟨by decide, by decide, by decide, by decide, by decide⟩,
    ⟨by decide, by decide, by decide, by decide, fun h => by rcases h with h | h <;> cases h⟩⟩

/-- Each event that fails a pass, from a state in which it does, and a pass that has not failed before
and after. -/
theorem test_witness_OnlyTheseEventsFailAPass :
    exec .encIofail (encAt .run .none 2 true 0) = .next (encAt .fail .ioFailure 2 true 0) ∧
    exec .decIofail (decAt .run .none 2 0x40) = .next (decAt .fail .ioFailure 2 0x40) ∧
    (2 < Config.cpw → exec (.decSym outsider) (decAt .run .none 3 0x48) =
      .next (decAt .fail .invalidSymbol 3 0x48)) ∧
    exec .decBad (decAt .run .none 0 0) = .next (decAt .fail .malformedTextEncoding 0 0) ∧
    exec .decEnd (decAt .run .none 1 0x40) = .next (decAt .fail .truncatedStream 1 0x40) ∧
    exec .decEnd (decAt .run .none 0 0x40) = .next (decAt .done .none 0 0x40) ∧
    exec .encEnd (encAt .run .none 0 false 0) = .next (encAt .done .none 0 false 0) :=
  ⟨rfl, rfl, test_decSym_invalid, rfl, rfl, rfl, rfl⟩

theorem test_witness_FailingStepWritesStatusAndErrorOnly :
    exec .encIofail (encAt .run .none 2 true 0xE4) = .next (encAt .fail .ioFailure 2 true 0xE4) ∧
    exec .decBad (decAt .run .none 3 0x48) = .next (decAt .fail .malformedTextEncoding 3 0x48) ∧
    exec .encEmit (encAt .fail .ioFailure 2 true 0xE4) = .next (encAt .fail .ioFailure 2 true 0xE4) ∧
    exec .decEnd (decAt .fail .invalidSymbol 1 0x40) = .next (decAt .fail .invalidSymbol 1 0x40) :=
  ⟨rfl, rfl, rfl, rfl⟩

theorem test_witness_OnlyStartOpensAPass :
    exec (.encPut 0) (encAt .done .none 0 false 0x69) = .next (encAt .done .none 0 false 0x69) ∧
    exec .decBad State.reset = .next State.reset ∧
    exec .encStart (encAt .run .none 0 false 0) = .next (encAt .run .none 0 false 0) ∧
    exec .decStart (decAt .run .none 0 0) = .next (decAt .run .none 0 0) := ⟨rfl, rfl, rfl, rfl⟩

theorem test_witness_UnitsLeaveEachOtherAlone :
    (unitOf .encEmit = some .enc ∧ exec .encEmit (encAt .run .none 0 true 0x4B) =
      .next { encAt .run .none 1 true 0x4B with encOut := [Config.sym.s1] }) ∧
    (unitOf .decEnd = some .dec ∧
      exec .decEnd (decAt .run .none 0 0) = .next (decAt .done .none 0 0)) ∧
    (unitOf (.lutC2s 2) = none ∧
      exec (.lutC2s 2) State.reset = .next { State.reset with c2sOut := [Config.sym.s2] }) :=
  ⟨⟨rfl, rfl⟩, ⟨rfl, rfl⟩, ⟨rfl, rfl⟩⟩

/-- For each register of the encoder an operation that changes it. -/
theorem test_witness_EncoderRegistersAreWrittenOnlyByTheirEvents :
    exec .encStart (encAt .fail .ioFailure 2 true 0xE4) = .next (encAt .run .none 0 false 0xE4) ∧
    exec (.encPut 0x4B) (encAt .run .none 0 false 0) = .next (encAt .run .none 0 true 0x4B) ∧
    exec .encEmit (encAt .run .none 3 true 0x4B) =
      .next { encAt .run .none 0 false 0x4B with encOut := [Config.sym.s3] } := ⟨rfl, rfl, rfl⟩

/-- For each register of the decoder an operation that changes it, and each kind of failing event. -/
theorem test_witness_DecoderRegistersAreWrittenOnlyByTheirEvents :
    exec .decIofail (decAt .run .none 2 0x40) = .next (decAt .fail .ioFailure 2 0x40) ∧
    exec .decEnd (decAt .run .none 2 0x40) = .next (decAt .fail .truncatedStream 2 0x40) ∧
    exec .decEnd (decAt .run .none 0 0x68) = .next (decAt .done .none 0 0x68) ∧
    exec .decStart (decAt .fail .invalidSymbol 1 0x40) = .next (decAt .run .none 0 0x40) ∧
    exec (.decSym Config.sym.s0) (decAt .run .none 0 0xFF) = .next (decAt .run .none 1 0x00) ∧
    exec (.decSym Config.sym.s0) (decAt .run .none 3 0x48) =
      .next { decAt .run .none 0 0x48 with decOut := [0x48] } := by
  refine ⟨rfl, rfl, rfl, rfl, test_decSym_first, ?_⟩
  simp [exec, execDecSym, accept, enabled, handsByte, State.takeSymbol, State.takeCode, State.putByte, place,
    symbolToCode_first, decAt, State.reset]

theorem test_witness_StaleEncByteIsNeverSeen :
    (encAt .run .none 0 false 0).encVld = false ∧
    exec (.encPut 7) (encAt .run .none 0 false 0) = .next (encAt .run .none 0 true 7) ∧
    exec (.encPut 7) { encAt .run .none 0 false 0 with encByte := 0xFF } =
      .next (encAt .run .none 0 true 7) := ⟨rfl, rfl, rfl⟩

theorem test_witness_StaleDecAccIsNeverSeen :
    (decAt .run .none 0 0).decCur = 0 ∧
    exec (.decSym Config.sym.s0) (decAt .run .none 0 0) =
      .next (after (decAt .run .none 0 0) (.decSym Config.sym.s0)) ∧
    exec (.decSym Config.sym.s0) { decAt .run .none 0 0 with decAcc := 0xFF } =
      .next (decAt .run .none 1 0x00) := ⟨rfl, exec_eq_after _ _, test_decSym_first⟩

theorem test_witness_StepRunsTheOfferedWord :
    (offer (.encEw 0x04B) State.reset).host = .serveEnc :: [] ∧
    (offer (.encEw 0x04B) State.reset).encPort = some 0x04B ∧
    decode (.encEw 0x04B) = .ok (.encPut 0x4B) ∧
    (offer (.decEw ⟨4, 0x31⟩) State.reset).host = .serveDec :: [] ∧
    (offer (.decEw ⟨4, 0x31⟩) State.reset).decPort = some ⟨4, 0x31⟩ ∧
    decode (.decEw ⟨4, 0x31⟩) = .ok .decStart := ⟨rfl, rfl, rfl, rfl, rfl, rfl⟩

theorem test_witness_StepRunsTransfersAndLookUps :
    (offer .symbolTaken State.reset).host = .takeSymbol :: [] ∧
    (offer (.c2sIn 3) State.reset).host = .lookC2s 3 :: [] ∧
    (offer (.s2cIn 0x1FFFFF) State.reset).host = .lookS2c 0x1FFFFF :: [] := ⟨rfl, rfl, rfl⟩

theorem test_witness_NotAcceptedWordStaysOffered :
    (enabled (.encPut 0x4B) (offer (.encEw 0x04B) State.reset) = false ∧
      (offer (.encEw 0x04B) State.reset).host = .serveEnc :: [] ∧
      (offer (.encEw 0x04B) State.reset).encPort = some 0x04B ∧
      decode (.encEw 0x04B) = .ok (.encPut 0x4B)) ∧
    (enabled .decEnd (offer (.decEw ⟨1, 0⟩) State.reset) = false ∧
      (offer (.decEw ⟨1, 0⟩) State.reset).host = .serveDec :: [] ∧
      (offer (.decEw ⟨1, 0⟩) State.reset).decPort = some ⟨1, 0⟩ ∧
      decode (.decEw ⟨1, 0⟩) = .ok .decEnd) := ⟨⟨rfl, rfl, rfl, rfl⟩, ⟨rfl, rfl, rfl, rfl⟩⟩

theorem test_witness_ActsWithoutEventChangeOnlyTheEnvironment :
    State.reset.host = [] ∧ (withHost State.reset [.pause]).host = .pause :: [] ∧
    (withHost State.reset [.offerEnc (some 0x400)]).host = .offerEnc (some 0x400) :: [] ∧
    (withHost State.reset [.offerDec none]).host = .offerDec none :: [] ∧
    (withHost State.reset [.byteSink false]).host = .byteSink false :: [] ∧
    ((withHost State.reset [.serveEnc]).host = .serveEnc :: [] ∧
      (withHost State.reset [.serveEnc]).encPort = none) ∧
    ((withHost State.reset [.serveDec]).host = .serveDec :: [] ∧
      (withHost State.reset [.serveDec]).decPort = none) :=
  ⟨rfl, rfl, rfl, rfl, rfl, ⟨rfl, rfl⟩, ⟨rfl, rfl⟩⟩

/-- A step that emits a symbol, and one that emits a byte. -/
theorem test_witness_OutputStreamsOnlyGrow :
    step (withHost (encAt .run .none 0 true 0x4B) [.takeSymbol]) =
      .next { encAt .run .none 1 true 0x4B with encOut := [Config.sym.s1] } ∧
    ∃ (s t : State), s.decOut = [] ∧ step s = .next t ∧ t.decOut = [0x48] := by
  obtain ⟨w, hd⟩ : ∃ w : DecWord, decode (.decEw w) = .ok (.decSym Config.sym.s0) :=
    ⟨⟨0, Config.sym.s0⟩, rfl⟩
  refine ⟨rfl, { decAt .run .none 3 0x48 with host := [.serveDec], decPort := some w },
    { decAt .run .none 0 0x48 with decOut := [0x48] }, rfl, ?_, rfl⟩
  simp [step, nextTurn, turnOf, eventOf, hd, conclude, release, portOf, exec, execDecSym, accept, enabled,
    handsByte, State.takeSymbol, State.takeCode, State.putByte, place, symbolToCode_first, decAt, State.reset]

/-- A state in the middle of a byte that meets the encoder invariants, and a step from it. -/
theorem test_witness_StepKeepsTheEncoderInvariant :
    EncoderInvariant (withHost (encAt .run .none 3 true 0x4B) [.takeSymbol]) ∧
    step (withHost (encAt .run .none 3 true 0x4B) [.takeSymbol]) =
      .next { encAt .run .none 0 false 0x4B with encOut := [Config.sym.s3] } :=
  ⟨⟨by decide, by decide, by decide, by decide, by decide⟩, rfl⟩

/-- A state in the middle of a run that meets the decoder invariants, and a step from it. -/
theorem test_witness_StepKeepsTheDecoderInvariant :
    DecoderInvariant (offer (.decEw ⟨1, 0⟩) (decAt .run .none 3 0x48)) ∧
    step (offer (.decEw ⟨1, 0⟩) (decAt .run .none 3 0x48)) = .next (decAt .fail .truncatedStream 3 0x48) :=
  ⟨⟨by decide, by decide, by decide, by decide, fun _ => ⟨by decide, by decide, by decide⟩⟩, rfl⟩

theorem test_witness_StepKeepsTheOutputInTheAlphabet :
    OutputInAlphabet (withHost (encAt .run .none 0 true 0x4B) [.takeSymbol]) ∧
    step (withHost (encAt .run .none 0 true 0x4B) [.takeSymbol]) =
      .next { encAt .run .none 1 true 0x4B with encOut := [Config.sym.s1] } :=
  ⟨fun _ h => (List.not_mem_nil h).elim, rfl⟩

theorem test_witness_EncByteEmitsItsFourSymbols :
    EncoderInvariant (encAt .run .none 0 false 0) ∧ (encAt .run .none 0 false 0).encSt = .run ∧
    (encAt .run .none 0 false 0).encVld = false ∧
    (unitOf .encIofail = some .enc ∧
      enabled .encIofail (play (encAt .run .none 0 false 0) ((encByteEvents 0x4B).take 4)) = true) :=
  ⟨⟨by decide, by decide, by decide, by decide, by decide⟩, rfl, rfl, ⟨rfl, rfl⟩⟩

theorem inAlphabet_s0 : inAlphabet Config.sym Config.sym.s0 = true := by
  simp [inAlphabet, symbolToCode_first]

theorem inAlphabet_outsider (wide : 2 < Config.cpw) : inAlphabet Config.sym outsider = false := by
  simp [inAlphabet, symbolToCode_outsider wide]

/-- A run cut at each of its four places. -/
theorem test_witness_DecRunEmitsOneByte :
    ((decAt .run .none 0 0).decSt = .run ∧ (decAt .run .none 0 0).decCur = 0 ∧
      (decAt .run .none 0 0).byteSinkReady = true) ∧
    (2 < Config.cpw → ∀ k ∈ [0, 1, 2, 3], ∃ good rest : List CP, good.length = k ∧
      good.all (inAlphabet Config.sym) = true ∧ inAlphabet Config.sym outsider = false ∧
      good.length + 1 + rest.length = 4) := by
  refine ⟨by decide, fun wide k hk => ⟨List.replicate k Config.sym.s0, List.replicate (3 - k) 0, by simp, ?_,
    inAlphabet_outsider wide, ?_⟩⟩
  · simp [inAlphabet_s0]
  · have : k ≤ 3 := by revert k; decide
    simp; omega

theorem test_witness_EncodePassYieldsEnc : State.reset.encSt ≠ .run := by decide

theorem test_witness_CutShortEncodePassYieldsAPrefix : State.reset.encSt ≠ .run ∧
    (encAt .fail .ioFailure 2 true 0xE4).encSt ≠ .run := by decide

theorem test_witness_DecodePassYieldsDec :
    State.reset.decSt ≠ .run ∧ State.reset.byteSinkReady = true := by decide

theorem test_witness_CutShortDecodePassYieldsCompleteRuns :
    State.reset.decSt ≠ .run ∧ State.reset.byteSinkReady = true ∧
    ([Config.sym.s0, Config.sym.s0, Config.sym.s0, Config.sym.s0, Config.sym.s0] : List CP).all
      (inAlphabet Config.sym) = true ∧
    (Instr.decBad = .decBad ∧ ErrKind.malformedTextEncoding = .malformedTextEncoding) :=
  ⟨by decide, rfl, by simp [inAlphabet_s0], rfl, rfl⟩

/-- The source's example S1 as what an encode pass emitted. -/
theorem test_witness_DecodingTheEncodingGivesTheBytes : symB4.WellFormed ∧ State.reset.encSt ≠ .run ∧
    State.reset.decSt ≠ .run ∧ State.reset.byteSinkReady = true ∧
    (play State.reset (encPassEvents [0x4B])).encOut =
      State.reset.encOut ++ [Config.sym.s1, Config.sym.s0, Config.sym.s2, Config.sym.s3] :=
  ⟨by decide, by decide, by decide, rfl, rfl⟩

theorem test_witness_DecodedLengthIsAQuarter :
    ([0x31, 0x30, 0x32, 0x33] : List (BitVec 21)).all (inAlphabet symB4) = true ∧
    ([0x31, 0x30, 0x32, 0x33] : List (BitVec 21)).length = 4 * 1 := by decide

/-- Section 2.5, `10231x23`: a value outside the alphabet after a complete run and one more symbol. -/
theorem test_witness_OutsideSymbolEndsThePass (wide : 2 < Config.cpw) :
    State.reset.decSt ≠ .run ∧ State.reset.byteSinkReady = true ∧
    ([Config.sym.s0, Config.sym.s0, Config.sym.s0, Config.sym.s0, Config.sym.s0] : List CP).all
      (inAlphabet Config.sym) = true ∧ inAlphabet Config.sym outsider = false :=
  ⟨by decide, rfl, by simp [inAlphabet_s0], inAlphabet_outsider wide⟩

theorem test_witness_TruncatedStreamIsReported :
    State.reset.decSt ≠ .run ∧ State.reset.byteSinkReady = true ∧
    ([Config.sym.s0] : List CP).all (inAlphabet Config.sym) = true ∧ ([Config.sym.s0] : List CP).length % 4 ≠ 0 ∧
    ([Config.sym.s0, Config.sym.s0, Config.sym.s0] : List CP).length % 4 ≠ 0 :=
  ⟨by decide, rfl, by simp [inAlphabet_s0], by decide, by decide⟩

theorem test_witness_EmptyStreamGivesNothing :
    State.reset.encSt ≠ .run ∧ State.reset.decSt ≠ .run := by decide

theorem test_witness_StreamsConcatenate :
    decodeStream symB4 [0x31, 0x30, 0x32, 0x33] = ([0x4B], .ok) ∧ decodeStream symB4 [] = ([], .ok) := ⟨rfl, rfl⟩

theorem test_witness_CodecIsABijection : symB4.WellFormed ∧ encodeStream symB4 [] = encodeStream symB4 [] ∧
    wellFormedStream symB4 [0x31, 0x30, 0x32, 0x33] = true ∧
    decodeStream symB4 [0x31, 0x30, 0x32, 0x33] = ([0x4B], .ok) ∧
    wellFormedStream symB4 [0x31] = false ∧ wellFormedStream symB4 [0x31, 0x30, 0x32, 0x34] = false :=
  ⟨by decide, rfl, rfl, rfl, rfl, rfl⟩

end Sys2Proof.Tests
end

section
/-! SUPPORT. The layout the two status words share (spec/10_state.md R34, R35), and both words in an
idle unit. -/

namespace Sys2Proof.Machine

/-- The fields of a status word at their places: 7, 6:5, 4:2, 1:0 (R34, R35). -/
def packStatus (top : Bool) (cur : Code) (err : BitVec 3) (st : BitVec 2) : BitVec 8 :=
  BitVec.ofBool top ++ cur ++ err ++ st

section Layout
variable (top : Bool) (cur : Code) (err : BitVec 3) (st : BitVec 2)

@[simp] theorem packStatus_st : (packStatus top cur err st).extractLsb' 0 2 = st :=
  BitVec.extractLsb'_append_eq_right

@[simp] theorem packStatus_err : (packStatus top cur err st).extractLsb' 2 3 = err :=
  calc (packStatus top cur err st).extractLsb' 2 3
    _ = (BitVec.ofBool top ++ cur ++ err).extractLsb' 0 3 := BitVec.extractLsb'_append_eq_of_le (by decide)
    _ = err := BitVec.extractLsb'_append_eq_right

@[simp] theorem packStatus_cur : (packStatus top cur err st).extractLsb' 5 2 = cur :=
  calc (packStatus top cur err st).extractLsb' 5 2
    _ = (BitVec.ofBool top ++ cur ++ err).extractLsb' 3 2 := BitVec.extractLsb'_append_eq_of_le (by decide)
    _ = (BitVec.ofBool top ++ cur).extractLsb' 0 2 := BitVec.extractLsb'_append_eq_of_le (by decide)
    _ = cur := BitVec.extractLsb'_append_eq_right

theorem packStatus_top : (packStatus top cur err st).getLsbD 7 = top :=
  calc (packStatus top cur err st).getLsbD 7
    _ = (BitVec.ofBool top ++ cur ++ err).getLsbD 5 := BitVec.getLsbD_append
    _ = (BitVec.ofBool top ++ cur).getLsbD 2 := BitVec.getLsbD_append
    _ = (BitVec.ofBool top).getLsbD 0 := BitVec.getLsbD_append
    _ = top := by simp

end Layout

variable (s : State)

theorem State.encStatus_eq_packStatus :
    s.encStatus = packStatus s.encVld s.encCur s.encErr.code s.encSt.code := rfl

theorem State.decStatus_eq_packStatus :
    s.decStatus = packStatus false s.decCur s.decErr.code s.decSt.code := rfl

variable {s}

theorem State.encStatus_eq_zero (hst : s.encSt = .idle) (herr : s.encErr = .none) (hcur : s.encCur = 0)
    (hvld : s.encVld = false) : s.encStatus = 0x00 := by
  rw [s.encStatus_eq_packStatus, hst, herr, hcur, hvld]; rfl

theorem State.decStatus_eq_zero (hst : s.decSt = .idle) (herr : s.decErr = .none) (hcur : s.decCur = 0) :
    s.decStatus = 0x00 := by
  rw [s.decStatus_eq_packStatus, hst, herr, hcur]; rfl

theorem State.reset_encStatus : State.reset.encStatus = 0x00 := State.encStatus_eq_zero rfl rfl rfl rfl

theorem State.reset_decStatus : State.reset.decStatus = 0x00 := State.decStatus_eq_zero rfl rfl rfl

/-! The statements about the reset state and the status words (spec/10_state.md R34, R35, R41). -/

/-- Settles O24: both words are instances of the one layout `packStatus`. -/
theorem statusWordsHoldTheirFields : Obligations.StatusWordsHoldTheirFields := by
  refine ⟨fun s => ?_, State.reset_encStatus, State.reset_decStatus⟩
  rw [s.encStatus_eq_packStatus, s.decStatus_eq_packStatus]
  exact ⟨packStatus_st .., packStatus_err .., packStatus_cur .., packStatus_top ..,
    packStatus_st .., packStatus_err .., packStatus_cur .., packStatus_top ..⟩

/-- Settles O22: the state elements and level outputs by evaluation, the words by `reset_encStatus` and
`reset_decStatus`. -/
theorem resetLeavesTheStatedValues : Obligations.ResetLeavesTheStatedValues :=
  ⟨rfl, rfl, rfl, rfl, rfl, rfl, rfl, State.reset_encStatus, State.reset_decStatus, rfl, rfl, rfl, rfl⟩

end Sys2Proof.Machine
end

section
/-! SUPPORT. Each unit on its own (spec/20_memory.md R61): what an operation of a unit does depends on
that unit alone, and for the decoder on the byte sink too (R131); any other operation leaves the unit
as it is. -/

namespace Sys2Proof.Machine

/-! What each unit's operations write, said once. -/

section Frames
variable {i : Instr} (s : State)

theorem after_writes_encoder (hi : unitOf i = some .enc) : ∃ st err cur vld byte out,
    after s i = { s with
      encSt := st, encErr := err, encCur := cur, encVld := vld, encByte := byte, encOut := out } := by
  rw [after_eq]
  split
  · cases i with
    | encPut | encEnd | encIofail | encStart | encEmit => exact ⟨_, _, _, _, _, _, rfl⟩
    | decSym | decEnd | decIofail | decBad | decStart | lutC2s | lutS2c => cases hi
  · exact ⟨_, _, _, _, _, _, rfl⟩

theorem after_writes_decoder (hi : unitOf i = some .dec) : ∃ st err cur acc out,
    after s i = { s with decSt := st, decErr := err, decCur := cur, decAcc := acc, decOut := out } := by
  rw [after_eq]
  split
  · cases i with
    | decSym x =>
      rcases takeSymbol_cases s x with ⟨_, heq⟩ | ⟨_, _, _, heq⟩ | ⟨_, _, _, heq⟩ <;>
        exact ⟨_, _, _, _, _, heq⟩
    | decEnd => rw [effect]; split <;> exact ⟨_, _, _, _, _, rfl⟩
    | decIofail | decBad | decStart => exact ⟨_, _, _, _, _, rfl⟩
    | encPut | encEnd | encIofail | encStart | encEmit | lutC2s | lutS2c => cases hi
  · exact ⟨_, _, _, _, _, rfl⟩

theorem after_writes_answers (hi : unitOf i = none) : ∃ c2s s2c tick,
    after s i = { s with c2sOut := c2s, s2cOut := s2c, freeTick := tick } := by
  cases i with
  | lutC2s | lutS2c => exact ⟨_, _, _, rfl⟩
  | encPut | encEnd | encIofail | encStart | encEmit => cases hi
  | decSym | decEnd | decIofail | decBad | decStart => cases hi

/-- The byte sink is the environment's: no operation changes it. -/
@[simp] theorem after_byteSinkReady (i : Instr) : (after s i).byteSinkReady = s.byteSinkReady := by
  match hu : unitOf i with
  | some .enc => obtain ⟨_, _, _, _, _, _, heq⟩ := after_writes_encoder s hu; rw [heq]
  | some .dec => obtain ⟨_, _, _, _, _, heq⟩ := after_writes_decoder s hu; rw [heq]
  | none => obtain ⟨_, _, _, heq⟩ := after_writes_answers s hu; rw [heq]

end Frames

/-! The encoder. -/

section Encoder
variable {i : Instr} {s t : State}

/-- An operation that is not the encoder's does not touch the encoder. -/
theorem sameEncoder_after_iff (hi : unitOf i ≠ some .enc) : SameEncoder (after s i) t ↔ SameEncoder s t := by
  match hu : unitOf i with
  | some .enc => exact absurd hu hi
  | some .dec => obtain ⟨_, _, _, _, _, heq⟩ := after_writes_decoder s hu; rw [heq]; exact Iff.rfl
  | none => obtain ⟨_, _, _, heq⟩ := after_writes_answers s hu; rw [heq]; exact Iff.rfl

theorem enabled_eq_of_sameEncoder (hi : unitOf i = some .enc) (h : SameEncoder s t) :
    enabled i s = enabled i t := by
  obtain ⟨hst, -, -, hvld, -, -⟩ := h
  cases i with
  | encPut | encEnd | encEmit => simp only [enabled, hst, hvld]
  | encIofail | encStart => simp only [enabled, hst]
  | decSym | decEnd | decIofail | decBad | decStart | lutC2s | lutS2c => cases hi

theorem sameEncoder_effect (hi : unitOf i = some .enc) (h : SameEncoder s t) :
    SameEncoder (effect i s) (effect i t) := by
  obtain ⟨hst, herr, hcur, hvld, hbyte, hout⟩ := h
  cases i with
  | encPut => exact ⟨hst, herr, hcur, rfl, rfl, hout⟩
  | encEnd => exact ⟨rfl, herr, hcur, hvld, hbyte, hout⟩
  | encIofail => exact ⟨rfl, rfl, hcur, hvld, hbyte, hout⟩
  | encStart => exact ⟨rfl, rfl, rfl, rfl, hbyte, hout⟩
  | encEmit => simp [SameEncoder, effect, hst, herr, hcur, hvld, hbyte, hout]
  | decSym | decEnd | decIofail | decBad | decStart | lutC2s | lutS2c => cases hi

theorem sameEncoder_after_after (hi : unitOf i = some .enc) (h : SameEncoder s t) :
    SameEncoder (after s i) (after t i) := by
  rw [after_eq, after_eq, enabled_eq_of_sameEncoder hi h]
  split
  · exact sameEncoder_effect hi h
  · exact h

end Encoder

/-! The decoder. -/

/-- Two states with the same decoder and the same byte sink: all that a decoder operation reads. -/
def SameDecoderAndSink (s t : State) : Prop := SameDecoder s t ∧ s.byteSinkReady = t.byteSinkReady

section Decoder
variable {i : Instr} {s t : State}

/-- An operation that is not the decoder's does not touch the decoder. -/
theorem sameDecoder_after_iff (hi : unitOf i ≠ some .dec) : SameDecoder (after s i) t ↔ SameDecoder s t := by
  match hu : unitOf i with
  | some .enc => obtain ⟨_, _, _, _, _, _, heq⟩ := after_writes_encoder s hu; rw [heq]; exact Iff.rfl
  | some .dec => exact absurd hu hi
  | none => obtain ⟨_, _, _, heq⟩ := after_writes_answers s hu; rw [heq]; exact Iff.rfl

theorem sameDecoderAndSink_after_iff (hi : unitOf i ≠ some .dec) :
    SameDecoderAndSink (after s i) t ↔ SameDecoderAndSink s t := by
  simp only [SameDecoderAndSink, sameDecoder_after_iff hi, after_byteSinkReady]

theorem enabled_eq_of_sameDecoderAndSink (hi : unitOf i = some .dec) (h : SameDecoderAndSink s t) :
    enabled i s = enabled i t := by
  obtain ⟨⟨hst, -, hcur, -, -⟩, hsink⟩ := h
  cases i with
  | decSym => simp only [enabled, handsByte, hst, hcur, hsink]
  | decEnd | decIofail | decBad | decStart => simp only [enabled, hst]
  | encPut | encEnd | encIofail | encStart | encEmit | lutC2s | lutS2c => cases hi

theorem sameDecoder_takeCode (c : Code) (h : SameDecoder s t) : SameDecoder (s.takeCode c) (t.takeCode c) := by
  obtain ⟨hst, herr, hcur, hacc, hout⟩ := h
  simp only [State.takeCode, hcur]
  split
  · exact ⟨hst, herr, rfl, hacc, by simp [hout, hacc]⟩
  · exact ⟨hst, herr, rfl, by simp only [hacc], hout⟩

theorem sameDecoder_effect (hi : unitOf i = some .dec) (h : SameDecoder s t) :
    SameDecoder (effect i s) (effect i t) := by
  have ⟨_, herr, hcur, hacc, hout⟩ := h
  cases i with
  | decSym x =>
    simp only [effect, State.takeSymbol]
    cases symbolToCode Config.sym x with
    | none => exact ⟨rfl, rfl, hcur, hacc, hout⟩
    | some c => exact sameDecoder_takeCode c h
  | decEnd =>
    simp only [effect, hcur]
    split
    · exact ⟨rfl, herr, hcur, hacc, hout⟩
    · exact ⟨rfl, rfl, hcur, hacc, hout⟩
  | decIofail | decBad => exact ⟨rfl, rfl, hcur, hacc, hout⟩
  | decStart => exact ⟨rfl, rfl, rfl, hacc, hout⟩
  | encPut | encEnd | encIofail | encStart | encEmit | lutC2s | lutS2c => cases hi

theorem sameDecoderAndSink_after_after (hi : unitOf i = some .dec) (h : SameDecoderAndSink s t) :
    SameDecoderAndSink (after s i) (after t i) := by
  refine ⟨?_, by simpa using h.2⟩
  rw [after_eq, after_eq, enabled_eq_of_sameDecoderAndSink hi h]
  split
  · exact sameDecoder_effect hi h.1
  · exact h.1

end Decoder

/-! Interleaving. -/

/-- A relation that `u`'s operations keep when both sides make them, and that every other operation keeps
when the left side alone makes it, still holds when the right side plays only `u`'s operations. -/
theorem play_filter_unitOf {R : State → State → Prop} {u : CodecUnit}
    (own : ∀ {i s t}, unitOf i = some u → R s t → R (after s i) (after t i))
    (other : ∀ {i s t}, unitOf i ≠ some u → R s t → R (after s i) t) {s t : State} (events : List Instr)
    (h : R s t) : R (play s events) (play t (events.filter fun i => unitOf i == some u)) := by
  induction events generalizing s t with
  | nil => exact h
  | cons i rest ih =>
    by_cases hi : unitOf i = some u
    · rw [List.filter_cons_of_pos (by simpa using hi)]
      exact ih (own hi h)
    · rw [List.filter_cons_of_neg (by simpa using hi)]
      exact ih (other hi h)

/-- Settles O31, by `play_filter_unitOf` for each unit; the decoder's operations also read the byte sink,
so its relation is `SameDecoderAndSink`. -/
theorem interleavingDoesNotMatter : Obligations.InterleavingDoesNotMatter := by
  intro s events
  constructor
  · exact play_filter_unitOf sameEncoder_after_after (fun hi => (sameEncoder_after_iff hi).mpr) events
      ⟨rfl, rfl, rfl, rfl, rfl, rfl⟩
  · have together : SameDecoderAndSink (play s events)
        (play s (events.filter fun i => unitOf i == some .dec)) :=
      play_filter_unitOf sameDecoderAndSink_after_after (fun hi => (sameDecoderAndSink_after_iff hi).mpr)
        events ⟨⟨rfl, rfl, rfl, rfl, rfl⟩, rfl⟩
    exact together.1

end Sys2Proof.Machine
end

section
/-! SUPPORT. The operation map over every word of the ports (spec/30_encoding.md R76, R77, R86): each row
of `DEC_EW` and `ENC_EW` is a value of the three top bits, which its mask singles out. -/

namespace Sys2Proof

/-! Mask and match. -/

/-- A kind above `n` zeros: a row's match in R86 is that of its kind, and the mask that of kind 7. -/
def kindAt (n : Nat) (k : Kind) : BitVec (3 + n) := k ++ 0#n

/-- On a port of any width, to match under the mask is to hold that kind in the top three bits. -/
theorem and_kindAt_seven_eq_kindAt_iff {n : Nat} (w : BitVec (3 + n)) (k : Kind) :
    w &&& kindAt n 7 = kindAt n k ↔ w.extractLsb' n 3 = k := by
  have masked : w &&& kindAt n 7 = w.extractLsb' n 3 ++ 0#n :=
    calc w &&& kindAt n 7
      _ = (w.extractLsb' n 3 ++ w.extractLsb' 0 n) &&& (7#3 ++ 0#n) := by
        rw [BitVec.extractLsb'_append_extractLsb']; rfl
      _ = (w.extractLsb' n 3 &&& BitVec.allOnes 3) ++ (w.extractLsb' 0 n &&& 0#n) := BitVec.and_append
      _ = w.extractLsb' n 3 ++ 0#n := by rw [BitVec.and_allOnes, BitVec.and_zero]
  rw [masked, kindAt, BitVec.append_left_inj]

/-! The rows of `ENC_EW`, by kind. -/

section EncRows
variable {w : EncWord}

theorem decode_encEw_put (h : encKind w = 0) : decode (.encEw w) = .ok (.encPut (encData w)) := by
  simp [decode, decodeEnc, h]

theorem decode_encEw_end (h : encKind w = 1) : decode (.encEw w) = .ok .encEnd := by
  simp [decode, decodeEnc, h]

theorem decode_encEw_iofail (h : encKind w = 2) : decode (.encEw w) = .ok .encIofail := by
  simp [decode, decodeEnc, h]

theorem decode_encEw_start (h : encKind w = 4) : decode (.encEw w) = .ok .encStart := by
  simp [decode, decodeEnc, h]

theorem decode_encEw_reserved (h : EncKindReserved (encKind w)) :
    decode (.encEw w) = .error (.reservedEncKind (encKind w)) := by
  rcases h with h | h | h | h <;> simp [decode, decodeEnc, h]

/-- R77: apart from `ENC.PUT`, which takes the data, the kind alone selects. -/
theorem decode_encEw_eq_of_encKind_eq {v : EncWord} (noData : encKind w ≠ 0) (h : encKind v = encKind w) :
    decode (.encEw v) = decode (.encEw w) := by
  simp only [decode, decodeEnc, h]
  split
  case h_1 zero => exact absurd (BitVec.eq_of_toNat_eq zero) noData
  all_goals rfl

end EncRows

/-! The rows of `DEC_EW`, by kind. -/

section DecRows
variable {w : DecWord}

theorem decode_decEw_sym (h : w.kind = 0) : decode (.decEw w) = .ok (.decSym w.cp) := by
  simp [decode, decodeDec, h]

theorem decode_decEw_end (h : w.kind = 1) : decode (.decEw w) = .ok .decEnd := by
  simp [decode, decodeDec, h]

theorem decode_decEw_iofail (h : w.kind = 2) : decode (.decEw w) = .ok .decIofail := by
  simp [decode, decodeDec, h]

theorem decode_decEw_bad (h : w.kind = 3) : decode (.decEw w) = .ok .decBad := by
  simp [decode, decodeDec, h]

theorem decode_decEw_start (h : w.kind = 4) : decode (.decEw w) = .ok .decStart := by
  simp [decode, decodeDec, h]

theorem decode_decEw_reserved (h : DecKindReserved w.kind) :
    decode (.decEw w) = .error (.reservedDecKind w.kind) := by
  rcases h with h | h | h <;> simp [decode, decodeDec, h]

/-- R77: apart from `DEC.SYM`, which takes the symbol, the kind alone selects. -/
theorem decode_decEw_eq_of_kind_eq {v : DecWord} (noData : w.kind ≠ 0) (h : v.kind = w.kind) :
    decode (.decEw v) = decode (.decEw w) := by
  simp only [decode, decodeDec, h]
  split
  case h_1 zero => exact absurd (BitVec.eq_of_toNat_eq zero) noData
  all_goals rfl

/-- The rows of `DEC_EW` by mask and match, for a drawing of the word with any number `n` of payload bits
below the kind: the build's own, and that of the table. -/
theorem decode_decEw_of_and_kindAt {n : Nat} (b : BitVec (3 + n)) (x : CP) :
    (b &&& kindAt n 7 = kindAt n 0 → decode (.decEw ⟨b.extractLsb' n 3, x⟩) = .ok (.decSym x)) ∧
    (b &&& kindAt n 7 = kindAt n 1 → decode (.decEw ⟨b.extractLsb' n 3, x⟩) = .ok .decEnd) ∧
    (b &&& kindAt n 7 = kindAt n 2 → decode (.decEw ⟨b.extractLsb' n 3, x⟩) = .ok .decIofail) ∧
    (b &&& kindAt n 7 = kindAt n 3 → decode (.decEw ⟨b.extractLsb' n 3, x⟩) = .ok .decBad) ∧
    (b &&& kindAt n 7 = kindAt n 4 → decode (.decEw ⟨b.extractLsb' n 3, x⟩) = .ok .decStart) ∧
    (b &&& kindAt n 7 = kindAt n 5 ∨ b &&& kindAt n 7 = kindAt n 6 ∨ b &&& kindAt n 7 = kindAt n 7 →
      ∃ e, decode (.decEw ⟨b.extractLsb' n 3, x⟩) = .error e) := by
  simp only [and_kindAt_seven_eq_kindAt_iff]
  exact ⟨fun h => decode_decEw_sym h, fun h => decode_decEw_end h, fun h => decode_decEw_iofail h,
    fun h => decode_decEw_bad h, fun h => decode_decEw_start h, fun h => ⟨_, decode_decEw_reserved h⟩⟩

end DecRows

/-- Settles O2: a match under the mask fixes the kind (`and_kindAt_seven_eq_kindAt_iff`), and the kind
fixes the row. -/
theorem wordsSelectByMaskAndMatch : Obligations.WordsSelectByMaskAndMatch := by
  refine ⟨fun w => ?enc, fun w => ?dec, decode_decEw_of_and_kindAt (n := 21), rfl, fun _ => rfl, fun _ => rfl⟩
  case enc =>
    have kind {k : Kind} : w &&& 0x700 = kindAt 8 k → encKind w = k :=
      (and_kindAt_seven_eq_kindAt_iff (n := 8) w k).mp
    exact ⟨fun h => decode_encEw_put (kind h), fun h => decode_encEw_end (kind h),
      fun h => decode_encEw_iofail (kind h), fun h => decode_encEw_start (kind h),
      fun h => ⟨_, decode_encEw_reserved (h.imp kind (Or.imp kind (Or.imp kind kind)))⟩⟩
  case dec =>
    rw [BitVec.setWidth_eq_extractLsb' (Nat.le_add_left ..)]
    exact decode_decEw_of_and_kindAt w (w.extractLsb' 0 Config.cpw)

/-- Settles O3: both words have the kind `k`, which is not that of a word with data. -/
theorem payloadIsIgnoredWithoutData : Obligations.PayloadIsIgnoredWithoutData := by
  intro k hk
  constructor
  · intro d d'
    have kind (d : Byte) : encKind (k ++ d) = k := encKind_encWord k d
    exact decode_encEw_eq_of_encKind_eq (by rwa [kind]) (by rw [kind, kind])
  · intro x x'
    simp only [decWordOfBits_append]
    exact decode_decEw_eq_of_kind_eq hk rfl

end Sys2Proof
end

section
/-! SUPPORT. The bits of a byte (spec/30_encoding.md R71, R72): four codes side by side are `pack` of them,
and the groups of a byte side by side are the byte. -/

namespace Sys2Proof.Machine

/-! The groups of a byte. -/

section Groups
variable (b : Byte)

/-- To keep the two low bits is to mask with 3. -/
theorem setWidth_setWidth_two_eq_and (v : Byte) : (v.setWidth 2).setWidth 8 = v &&& 0b11 :=
  BitVec.eq_of_toNat_eq <| calc ((v.setWidth 2).setWidth 8).toNat
    _ = v.toNat % 2 ^ 2 := by rw [BitVec.toNat_setWidth_of_le (by decide), BitVec.toNat_setWidth]
    _ = v.toNat &&& 0b11 := (Nat.and_two_pow_sub_one_eq_mod v.toNat 2).symm

/-- The slice of a group is a shift and a mask. -/
theorem setWidth_group (k : Code) : (group b k).setWidth 8 = (b >>> (6 - 2 * k.toNat)) &&& 0b11 := by
  rw [group, ← BitVec.setWidth_ushiftRight_eq_extractLsb, setWidth_setWidth_two_eq_and]

/-- Nothing stands above the first group, so its mask falls away. -/
theorem setWidth_group_zero : (group b 0).setWidth 8 = b >>> 6 := by
  rw [BitVec.ushiftRight_eq_extractLsb'_of_lt (by decide), BitVec.setWidth_eq_append (by decide)]
  rfl

theorem group_append_group : group b 0 ++ group b 1 ++ group b 2 ++ group b 3 = b := by
  have firstTwo : group b 0 ++ group b 1 = b.extractLsb' 4 4 :=
    BitVec.extractLsb'_append_extractLsb'_eq_extractLsb' rfl
  have firstThree : b.extractLsb' 4 4 ++ group b 2 = b.extractLsb' 2 6 :=
    BitVec.extractLsb'_append_extractLsb'_eq_extractLsb' rfl
  rw [firstTwo, firstThree]
  exact BitVec.extractLsb'_append_extractLsb'

end Groups

/-! The byte of four codes. -/

section Pack
variable (c0 c1 c2 c3 : Code)

theorem pack_eq_or : pack c0 c1 c2 c3 =
    c0.setWidth 8 <<< 6 ||| c1.setWidth 8 <<< 4 ||| c2.setWidth 8 <<< 2 ||| c3.setWidth 8 := by
  simp [pack, place]

theorem pack_eq_append : pack c0 c1 c2 c3 = c0 ++ c1 ++ c2 ++ c3 := by
  have fields := BitVec.setWidth_append_append_append_eq_shiftLeft_setWidth_or (w'''' := 8)
    (b := c0) (b' := c1) (b'' := c2) (b''' := c3)
  rw [BitVec.setWidth_eq] at fields
  exact (pack_eq_or ..).trans fields.symm

/-- A code below `x` adds to its value without a carry. -/
theorem toNat_append_code {n : Nat} (x : BitVec n) (c : Code) : (x ++ c).toNat = x.toNat * 4 + c.toNat := by
  rw [BitVec.toNat_append, ← Nat.shiftLeft_add_eq_or_of_lt c.isLt, Nat.shiftLeft_eq]

theorem toNat_pack : (pack c0 c1 c2 c3).toNat = c0.toNat * 64 + c1.toNat * 16 + c2.toNat * 4 + c3.toNat := by
  rw [pack_eq_append, toNat_append_code, toNat_append_code, toNat_append_code]
  omega

@[simp] theorem group_pack_three : group (pack c0 c1 c2 c3) 3 = c3 := by
  rw [pack_eq_append]; exact BitVec.extractLsb'_append_eq_right

@[simp] theorem group_pack_two : group (pack c0 c1 c2 c3) 2 = c2 := by
  rw [pack_eq_append]
  calc group (c0 ++ c1 ++ c2 ++ c3) 2
    _ = (c0 ++ c1 ++ c2).extractLsb' 0 2 := BitVec.extractLsb'_append_eq_of_le (by decide)
    _ = c2 := BitVec.extractLsb'_append_eq_right

@[simp] theorem group_pack_one : group (pack c0 c1 c2 c3) 1 = c1 := by
  rw [pack_eq_append]
  calc group (c0 ++ c1 ++ c2 ++ c3) 1
    _ = (c0 ++ c1 ++ c2).extractLsb' 2 2 := BitVec.extractLsb'_append_eq_of_le (by decide)
    _ = (c0 ++ c1).extractLsb' 0 2 := BitVec.extractLsb'_append_eq_of_le (by decide)
    _ = c1 := BitVec.extractLsb'_append_eq_right

@[simp] theorem group_pack_zero : group (pack c0 c1 c2 c3) 0 = c0 := by
  rw [pack_eq_append]
  calc group (c0 ++ c1 ++ c2 ++ c3) 0
    _ = (c0 ++ c1 ++ c2).extractLsb' 4 2 := BitVec.extractLsb'_append_eq_of_le (by decide)
    _ = (c0 ++ c1).extractLsb' 2 2 := BitVec.extractLsb'_append_eq_of_le (by decide)
    _ = c0 := BitVec.extractLsb'_append_eq_left

end Pack

@[simp] theorem pack_group (b : Byte) : pack (group b 0) (group b 1) (group b 2) (group b 3) = b :=
  (pack_eq_append ..).trans (group_append_group b)

/-- Settles O6: the closed forms are `setWidth_group` at each `k`. -/
theorem groupsAreTheSlices : Obligations.GroupsAreTheSlices := fun b =>
  ⟨setWidth_group b, setWidth_group_zero b, setWidth_group b 1, setWidth_group b 2,
    by simpa using setWidth_group b 3, group_append_group b⟩

/-- Settles O7, by way of the concatenation. -/
theorem packIsTheInverseOfGroups : Obligations.PackIsTheInverseOfGroups :=
  ⟨fun c0 c1 c2 c3 => ⟨pack_eq_or c0 c1 c2 c3, pack_eq_append c0 c1 c2 c3, toNat_pack c0 c1 c2 c3,
    group_pack_zero c0 c1 c2 c3, group_pack_one c0 c1 c2 c3, group_pack_two c0 c1 c2 c3,
    group_pack_three c0 c1 c2 c3⟩, pack_group⟩

end Sys2Proof.Machine
end

section
/-! SUPPORT. The two look-ups over any table of distinct symbols: when `LUT.S2C` misses, and that each
look-up undoes the other (spec/40_symbolmap.md R101 to R103). -/

namespace Sys2Proof.Machine

theorem forall_code {p : Code → Prop} : (∀ c, p c) ↔ p 0 ∧ p 1 ∧ p 2 ∧ p 3 := by
  refine ⟨fun h => ⟨h 0, h 1, h 2, h 3⟩, fun ⟨h0, h1, h2, h3⟩ c => ?_⟩
  rcases code_cases c with rfl | rfl | rfl | rfl <;> assumption

section Lookups
variable {w : Nat} {t : SymTable w}

/-! These hold of any table, with distinct symbols or not. -/

theorem symbolToCode_eq_none_iff_ne {x : BitVec w} :
    symbolToCode t x = none ↔ x ≠ t.s0 ∧ x ≠ t.s1 ∧ x ≠ t.s2 ∧ x ≠ t.s3 := by
  unfold symbolToCode
  constructor
  · intro h
    split_ifs at h with h0 h1 h2 h3
    exact ⟨h0, h1, h2, h3⟩
  · rintro ⟨h0, h1, h2, h3⟩
    rw [if_neg h0, if_neg h1, if_neg h2, if_neg h3]

/-- A look-up misses exactly on the values that are no entry. -/
theorem symbolToCode_eq_none_iff {x : BitVec w} :
    symbolToCode t x = none ↔ ∀ c, codeToSymbol t c ≠ x := by
  rw [symbolToCode_eq_none_iff_ne, forall_code]
  simp only [ne_comm (a := x)]
  rfl

theorem symbolToCode_ne_none_iff {x : BitVec w} :
    symbolToCode t x ≠ none ↔ x = t.s0 ∨ x = t.s1 ∨ x = t.s2 ∨ x = t.s3 := by
  rw [ne_eq, symbolToCode_eq_none_iff_ne]
  tauto

/-- The code of a hit leads back to the symbol: the test that succeeded compared with that entry. -/
theorem codeToSymbol_of_symbolToCode {x : BitVec w} {c : Code} (h : symbolToCode t x = some c) :
    codeToSymbol t c = x := by
  unfold symbolToCode at h
  split_ifs at h with h0 h1 h2 h3 <;> cases h
  · exact h0.symm
  · exact h1.symm
  · exact h2.symm
  · exact h3.symm

/-! These need distinct symbols: the first entry equal to the value is then the only one. -/

theorem symbolToCode_codeToSymbol (ht : t.WellFormed) (c : Code) :
    symbolToCode t (codeToSymbol t c) = some c := by
  obtain ⟨h01, h02, h03, h12, h13, h23⟩ := ht
  rcases code_cases c with rfl | rfl | rfl | rfl
  · exact symbolToCode_first t
  · simp [symbolToCode, h01.symm]
  · simp [symbolToCode, h02.symm, h12.symm]
  · simp [symbolToCode, h03.symm, h13.symm, h23.symm]

/-- The two look-ups are inverse (R103). -/
theorem symbolToCode_eq_some_iff (ht : t.WellFormed) {x : BitVec w} {c : Code} :
    symbolToCode t x = some c ↔ codeToSymbol t c = x :=
  ⟨codeToSymbol_of_symbolToCode, fun h => h ▸ symbolToCode_codeToSymbol ht c⟩

theorem codeToSymbol_injective (ht : t.WellFormed) : Function.Injective (codeToSymbol t) := fun c d h =>
  Option.some.inj <| calc some c
    _ = symbolToCode t (codeToSymbol t d) := ((symbolToCode_eq_some_iff ht).mpr h).symm
    _ = some d := symbolToCode_codeToSymbol ht d

end Lookups

/-! The statements about the look-ups. -/

/-- Settles O9; the four cases of R102 are `symbolToCode_codeToSymbol` at each code. -/
theorem lookUpsAreInverse : Obligations.LookUpsAreInverse := fun _ _ ht =>
  have inverse := symbolToCode_codeToSymbol ht
  ⟨forall_code.mp inverse, fun _ h0 h1 h2 h3 => symbolToCode_eq_none_iff_ne.mpr ⟨h0, h1, h2, h3⟩,
    inverse, fun _ _ => codeToSymbol_of_symbolToCode, fun _ => symbolToCode_ne_none_iff⟩

/-- Settles O8, since the build's four symbols are distinct (`Config.sym_wellFormed`). -/
theorem symbolTableIsABijection : Obligations.SymbolTableIsABijection :=
  ⟨fun _ _ h => codeToSymbol_injective Config.sym_wellFormed h, fun _ => symbolToCode_eq_none_iff⟩

/-- Settles O10: the look-up is always enabled, so its effect is the answer on the port. -/
theorem codeLookUpAnswersTheSymbol : Obligations.CodeLookUpAnswersTheSymbol := by
  refine ⟨⟨codeToSymbol_zero _, codeToSymbol_one _, codeToSymbol_two _, codeToSymbol_three _⟩, fun c s => ?_⟩
  rw [exec_eq, if_pos (enabled_lutC2s c s)]
  rfl

end Sys2Proof.Machine
end

section
/-! SUPPORT. The operations of the encoder (spec/41_encoder.md R110 to R114) from word to effect, and the
states between the events of one byte (R116). -/

namespace Sys2Proof.Machine

/-! What `exec` answers where an operation is enabled and where it is not. -/

section Exec
variable {i : Instr} {s t : State}

theorem exec_of_enabled (h : enabled i s = true) : exec i s = .next (effect i s) := by
  rw [exec_eq_after, after_of_enabled h]

theorem eq_of_exec_of_not_enabled (h : ¬ enabled i s = true) (ht : exec i s = .next t) : t = s := by
  rw [exec_next_iff.mp ht, after_of_not_enabled (Bool.eq_false_of_not_eq_true h)]

end Exec

/-! The enabling conditions of the encoder's operations (R115). -/

section Enabled
variable {b : Byte} {s : State}

@[simp] theorem enabled_encPut_iff : enabled (.encPut b) s = true ↔ s.encSt = .run ∧ s.encVld = false := by
  simp [enabled]

@[simp] theorem enabled_encEnd_iff : enabled .encEnd s = true ↔ s.encSt = .run ∧ s.encVld = false := by
  simp [enabled]

@[simp] theorem enabled_encEmit_iff : enabled .encEmit s = true ↔ s.encSt = .run ∧ s.encVld = true := by
  simp [enabled]

@[simp] theorem enabled_encIofail_iff : enabled .encIofail s = true ↔ s.encSt = .run := by simp [enabled]

@[simp] theorem enabled_encStart_iff : enabled .encStart s = true ↔ s.encSt ≠ .run := by simp [enabled]

/-- While a byte is held, the encoder can only emit or fail. -/
theorem encEmit_or_encIofail_of_enabled {i : Instr} (hrun : s.encSt = .run) (held : s.encVld = true)
    (hi : unitOf i = some .enc) (h : enabled i s = true) : i = .encEmit ∨ i = .encIofail := by
  cases i with
  | encPut => simp [held] at h
  | encEnd => simp [held] at h
  | encStart => exact absurd hrun (enabled_encStart_iff.mp h)
  | encEmit => exact .inl rfl
  | encIofail => exact .inr rfl
  | decSym | decEnd | decIofail | decBad | decStart | lutC2s | lutS2c => cases hi

end Enabled

/-! The two shapes of the step of `ENC.EMIT` (R112). -/

section Emit
variable {s : State}

theorem State.emit_of_encCur_ne_three (h : s.encCur ≠ 3) : s.emit = { s with
    encOut := s.encOut ++ [codeToSymbol Config.sym (group s.encByte s.encCur)]
    encCur := s.encCur + 1 } := by
  rw [State.emit, if_neg h]; rfl

theorem State.emit_of_encCur_eq_three (h : s.encCur = 3) : s.emit = { s with
    encOut := s.encOut ++ [codeToSymbol Config.sym (group s.encByte 3)]
    encCur := 0
    encVld := false } := by
  rw [State.emit, if_pos h, h]; rfl

end Emit

/-! The statements about the five operations. -/

/-- Settles O12. -/
theorem encStartOpensAPass : Obligations.EncStartOpensAPass :=
  ⟨fun d => decode_encEw_start (encKind_encWord 4 d),
    fun _ idle => exec_of_enabled (enabled_encStart_iff.mpr idle),
    fun _ _ hrun => eq_of_exec_of_not_enabled fun h => enabled_encStart_iff.mp h hrun⟩

/-- Settles O13. -/
theorem encPutTakesTheByte : Obligations.EncPutTakesTheByte := by
  refine ⟨fun b => ?_, fun _ _ hrun free => exec_of_enabled (enabled_encPut_iff.mpr ⟨hrun, free⟩),
    fun _ _ _ waits => eq_of_exec_of_not_enabled (mt enabled_encPut_iff.mp waits)⟩
  calc decode (.encEw (encWord 0 b))
    _ = .ok (.encPut (encData (encWord 0 b))) := decode_encEw_put (encKind_encWord 0 b)
    _ = .ok (.encPut b) := by rw [encData_encWord]

/-- Settles O14: its two clauses about the cursor are the two shapes of the step. -/
theorem encEmitSendsTheNextSymbol : Obligations.EncEmitSendsTheNextSymbol := by
  have emits {s : State} (hrun : s.encSt = .run) (held : s.encVld = true) :
      exec .encEmit s = .next s.emit := exec_of_enabled (enabled_encEmit_iff.mpr ⟨hrun, held⟩)
  refine ⟨rfl, fun s hrun held hcur => ?_, fun s hrun held hcur => ?_,
    fun _ _ waits => eq_of_exec_of_not_enabled (mt enabled_encEmit_iff.mp waits)⟩
  · rw [emits hrun held, State.emit_of_encCur_ne_three hcur, BitVec.add_def]
    rfl
  · rw [emits hrun held, State.emit_of_encCur_eq_three hcur]
    rfl

/-- Settles O15. -/
theorem encEndFinishesThePass : Obligations.EncEndFinishesThePass :=
  ⟨fun d => decode_encEw_end (encKind_encWord 1 d),
    fun _ hrun free => exec_of_enabled (enabled_encEnd_iff.mpr ⟨hrun, free⟩),
    fun _ _ waits => eq_of_exec_of_not_enabled (mt enabled_encEnd_iff.mp waits)⟩

/-- Settles O16. -/
theorem encIofailFailsThePass : Obligations.EncIofailFailsThePass :=
  ⟨fun d => decode_encEw_iofail (encKind_encWord 2 d),
    fun _ hrun => exec_of_enabled (enabled_encIofail_iff.mpr hrun),
    fun _ _ ended => eq_of_exec_of_not_enabled (mt enabled_encIofail_iff.mp ended)⟩

/-! The events of one byte. -/

theorem allAccepted_cons {s : State} {i : Instr} {rest : List Instr} :
    allAccepted s (i :: rest) = true ↔ enabled i s = true ∧ allAccepted (after s i) rest = true := by
  simp [allAccepted]

/-- The state that `ENC.PUT b` and `k` times `ENC.EMIT` make of `s`, for `k` up to 4 (R116): the first `k`
groups of `b` are out, and `b` is held until the fourth is. -/
def State.midByte (s : State) (b : Byte) (k : Nat) : State := { s with
  encByte := b
  encCur := BitVec.ofNat 2 k
  encVld := decide (k < 4)
  encOut := s.encOut ++ (List.range k).map fun j => codeToSymbol Config.sym (group b (BitVec.ofNat 2 j)) }

section MidByte
variable {s : State} {b : Byte} {k : Nat}

theorem State.midByte_encVld (hk : k < 4) : (s.midByte b k).encVld = true := decide_eq_true hk

theorem after_encPut_eq_midByte (hrun : s.encSt = .run) (free : s.encVld = false) (hcur : s.encCur = 0) :
    after s (.encPut b) = s.midByte b 0 := by
  rw [after_of_enabled (enabled_encPut_iff.mpr ⟨hrun, free⟩)]
  simp [effect, State.midByte, hcur]

theorem enabled_encEmit_midByte (hrun : s.encSt = .run) (hk : k < 4) :
    enabled .encEmit (s.midByte b k) = true :=
  enabled_encEmit_iff.mpr ⟨hrun, State.midByte_encVld hk⟩

/-- The cursor of `midByte` counts the symbols that are out, so it is 3 when the last group's turn comes. -/
theorem State.emit_midByte (hk : k < 4) : (s.midByte b k).emit = s.midByte b (k + 1) := by
  by_cases last : k = 3
  · subst last
    rw [State.emit_of_encCur_eq_three rfl]
    simp [State.midByte, List.range_succ]
  · have hcur : (s.midByte b k).encCur ≠ 3 := fun h => last <| by
      simpa [State.midByte, Nat.mod_eq_of_lt hk] using congrArg BitVec.toNat h
    have still : k + 1 < 4 := by omega
    rw [State.emit_of_encCur_ne_three hcur]
    simp [State.midByte, List.range_succ, BitVec.ofNat_add, hk, still]

/-- Within a byte every `ENC.EMIT` is accepted and moves on by one group. -/
theorem allAccepted_and_play_encEmits (hrun : s.encSt = .run) {n : Nat} (hn : k + n ≤ 4) :
    allAccepted (s.midByte b k) (List.replicate n .encEmit) = true ∧
    play (s.midByte b k) (List.replicate n .encEmit) = s.midByte b (k + n) := by
  induction n generalizing k with
  | zero => exact ⟨rfl, rfl⟩
  | succ n ih =>
    have hk : k < 4 := by omega
    have ready := enabled_encEmit_midByte (b := b) hrun hk
    have next : after (s.midByte b k) .encEmit = s.midByte b (k + 1) :=
      (after_of_enabled ready).trans (State.emit_midByte hk)
    obtain ⟨accepted, played⟩ := ih (k := k + 1) (by omega)
    rw [List.replicate_succ, allAccepted_cons, play_cons, next]
    exact ⟨⟨ready, accepted⟩, by rw [played, Nat.add_assoc, Nat.add_comm 1]⟩

theorem encByteEvents_take_succ (hk : k ≤ 4) :
    (encByteEvents b).take (k + 1) = .encPut b :: List.replicate k .encEmit := by
  have events : encByteEvents b = .encPut b :: List.replicate 4 .encEmit := rfl
  rw [events, List.take_succ_cons, List.take_replicate, Nat.min_eq_left hk]

theorem play_take_encByteEvents (hrun : s.encSt = .run) (free : s.encVld = false) (hcur : s.encCur = 0)
    (hk : k ≤ 4) : play s ((encByteEvents b).take (k + 1)) = s.midByte b k := by
  rw [encByteEvents_take_succ hk, play_cons, after_encPut_eq_midByte hrun free hcur]
  simpa using (allAccepted_and_play_encEmits (b := b) (k := 0) hrun (n := k) (by omega)).2

theorem allAccepted_encByteEvents (hrun : s.encSt = .run) (free : s.encVld = false) (hcur : s.encCur = 0) :
    allAccepted s (encByteEvents b) = true := by
  refine allAccepted_cons.mpr ⟨enabled_encPut_iff.mpr ⟨hrun, free⟩, ?_⟩
  rw [after_encPut_eq_midByte hrun free hcur]
  exact (allAccepted_and_play_encEmits (k := 0) hrun (n := 4) (by decide)).1

end MidByte

/-- Settles O47: E1 puts the cursor at 0, and the states the events lead through are those of `midByte`,
where the byte is held until the fourth symbol is out. -/
theorem encByteEmitsItsFourSymbols : Obligations.EncByteEmitsItsFourSymbols := by
  intro s b inv hrun free
  have hcur : s.encCur = 0 := inv.e1 free
  refine ⟨allAccepted_encByteEvents hrun free hcur, fun k i hk hi h => ?_,
    play_take_encByteEvents hrun free hcur (k := 4) le_rfl⟩
  rw [play_take_encByteEvents hrun free hcur hk.le] at h
  exact encEmit_or_encIofail_of_enabled (s := s.midByte b k) hrun (State.midByte_encVld hk) hi h

end Sys2Proof.Machine
end

section
/-! SUPPORT. The operations of the decoder (spec/42_decoder.md R130 to R134) from word to effect. -/

namespace Sys2Proof.Machine

/-! The enabling conditions of the decoder's operations (R135). -/

section Enabled
variable {x : CP} {s : State}

theorem handsByte_iff : handsByte x s = true ↔ s.decCur = 3 ∧ symbolToCode Config.sym x ≠ none := by
  simp [handsByte, Option.isSome_iff_ne_none]

/-- `DEC.SYM` waits for the byte sink only with a symbol of the alphabet at cursor 3. -/
@[simp] theorem enabled_decSym_iff : enabled (.decSym x) s = true ↔
    s.decSt = .run ∧ (s.decCur = 3 → symbolToCode Config.sym x ≠ none → s.byteSinkReady = true) := by
  rw [← and_imp, ← handsByte_iff]
  cases hands : handsByte x s <;> simp [enabled, hands]

@[simp] theorem enabled_decEnd_iff : enabled .decEnd s = true ↔ s.decSt = .run := by simp [enabled]

@[simp] theorem enabled_decBad_iff : enabled .decBad s = true ↔ s.decSt = .run := by simp [enabled]

@[simp] theorem enabled_decIofail_iff : enabled .decIofail s = true ↔ s.decSt = .run := by simp [enabled]

@[simp] theorem enabled_decStart_iff : enabled .decStart s = true ↔ s.decSt ≠ .run := by simp [enabled]

end Enabled

theorem kind_decWordOfBits_append (k : Kind) (x : CP) : (decWordOfBits (k ++ x)).kind = k := by
  rw [decWordOfBits_append]

/-! The shapes of the step of `DEC.SYM` (R131). -/

section Take
variable {x : CP} {c : Code} {s : State}

theorem State.takeCode_of_decCur_eq_three (h : s.decCur = 3) : s.takeCode c = { s with
    decOut := s.decOut ++ [s.decAcc ||| c.setWidth 8]
    decCur := 0 } := by
  have lowest : place c 3 = c.setWidth 8 := BitVec.shiftLeft_zero _
  rw [State.takeCode, if_pos h, lowest]; rfl

theorem State.takeCode_of_decCur_ne_three (h : s.decCur ≠ 3) : s.takeCode c = { s with
    decAcc := accumulate s.decAcc s.decCur c
    decCur := s.decCur + 1 } := if_neg h

theorem exec_decSym_of_code (hx : symbolToCode Config.sym x = some c) (hrun : s.decSt = .run)
    (sink : s.decCur = 3 → s.byteSinkReady = true) : exec (.decSym x) s = .next (s.takeCode c) := by
  rw [exec_of_enabled (enabled_decSym_iff.mpr ⟨hrun, fun last _ => sink last⟩), effect, State.takeSymbol, hx]

theorem exec_decSym_of_miss (hx : symbolToCode Config.sym x = none) (hrun : s.decSt = .run) :
    exec (.decSym x) s = .next (s.raise .dec .invalidSymbol) := by
  rw [exec_of_enabled (enabled_decSym_iff.mpr ⟨hrun, fun _ hit => absurd hx hit⟩), effect, State.takeSymbol, hx]

/-- Before cursor 3 no byte is due, so the sink does not matter. -/
theorem exec_decSym_of_decCur_eq {k : Code} (hx : symbolToCode Config.sym x = some c) (hrun : s.decSt = .run)
    (hcur : s.decCur = k) (hk : k ≠ 3) :
    exec (.decSym x) s = .next { s with decAcc := accumulate s.decAcc k c, decCur := k + 1 } := by
  subst hcur
  rw [exec_decSym_of_code hx hrun fun last => absurd last hk, State.takeCode_of_decCur_ne_three hk]

end Take

/-! The statements about the five operations. -/

/-- Settles O17. -/
theorem decStartOpensAPass : Obligations.DecStartOpensAPass :=
  ⟨fun x => decode_decEw_start (kind_decWordOfBits_append 4 x),
    fun _ idle => exec_of_enabled (enabled_decStart_iff.mpr idle),
    fun _ _ hrun => eq_of_exec_of_not_enabled fun h => enabled_decStart_iff.mp h hrun⟩

/-- Settles O18: the clauses about the first three cursors are `exec_decSym_of_decCur_eq` at each. -/
theorem decSymTakesOrRejectsTheSymbol : Obligations.DecSymTakesOrRejectsTheSymbol := by
  refine ⟨fun x => ?word, fun x c s hx hrun => ?code, fun _ _ hx hrun => exec_decSym_of_miss hx hrun,
    fun _ _ _ ended => eq_of_exec_of_not_enabled fun h => ended (enabled_decSym_iff.mp h).1⟩
  case word => rw [decWordOfBits_append]; exact decode_decEw_sym rfl
  case code =>
    have taken {k : Code} (hk : k ≠ 3) (hcur : s.decCur = k) := exec_decSym_of_decCur_eq hx hrun hcur hk
    refine ⟨taken (by decide), taken (by decide), taken (by decide), fun last ready => ?_,
      fun last unready t => eq_of_exec_of_not_enabled fun h => ?_⟩
    · rw [exec_decSym_of_code hx hrun fun _ => ready, State.takeCode_of_decCur_eq_three last]
    · have ready : s.byteSinkReady = true := (enabled_decSym_iff.mp h).2 last (by simp [hx])
      simp [unready] at ready

/-- Settles O19. -/
theorem decEndFinishesOrReportsTruncation : Obligations.DecEndFinishesOrReportsTruncation := by
  have ends {s : State} (hrun : s.decSt = .run) : exec .decEnd s = .next
      (if s.decCur = 0 then s.finishPass .dec else s.raise .dec .truncatedStream) :=
    exec_of_enabled (enabled_decEnd_iff.mpr hrun)
  refine ⟨fun x => decode_decEw_end (kind_decWordOfBits_append 1 x),
    fun s hrun complete => ?_, fun s hrun cut => ?_,
    fun _ _ ended => eq_of_exec_of_not_enabled (mt enabled_decEnd_iff.mp ended)⟩
  · rw [ends hrun, if_pos complete]; rfl
  · rw [ends hrun, if_neg cut]; rfl

/-- Settles O20. -/
theorem decBadFailsThePass : Obligations.DecBadFailsThePass :=
  ⟨fun x => decode_decEw_bad (kind_decWordOfBits_append 3 x),
    fun _ hrun => exec_of_enabled (enabled_decBad_iff.mpr hrun),
    fun _ _ ended => eq_of_exec_of_not_enabled (mt enabled_decBad_iff.mp ended)⟩

/-- Settles O21. -/
theorem decIofailFailsThePass : Obligations.DecIofailFailsThePass :=
  ⟨fun x => decode_decEw_iofail (kind_decWordOfBits_append 2 x),
    fun _ hrun => exec_of_enabled (enabled_decIofail_iff.mpr hrun),
    fun _ _ ended => eq_of_exec_of_not_enabled (mt enabled_decIofail_iff.mp ended)⟩

end Sys2Proof.Machine
end

section
/-! SUPPORT. The functions `enc` and `dec` over any table (spec/43_pass_semantics.md R152, R153): a stream is
taken run by run, four symbols to a byte. -/

namespace Sys2Proof.Machine

/-- A stream is either shorter than a run, or a run and a stream. -/
theorem run_induction {α : Type} {motive : List α → Prop} (short : ∀ l, l.length < 4 → motive l)
    (run : ∀ x0 x1 x2 x3 rest, motive rest → motive (x0 :: x1 :: x2 :: x3 :: rest)) : ∀ l, motive l
  | [] => short _ (by simp)
  | [_] => short _ (by simp)
  | [_, _] => short _ (by simp)
  | [_, _, _] => short _ (by simp)
  | x0 :: x1 :: x2 :: x3 :: rest => run x0 x1 x2 x3 rest (run_induction short run rest)

/-! `enc`. -/

section Encode
variable {w : Nat} (t : SymTable w)

theorem encodeStream_eq_flatMap (bytes : List Byte) : encodeStream t bytes = bytes.flatMap (encodeByte t) := by
  induction bytes with
  | nil => rfl
  | cons b bytes ih => rw [encodeStream, ih, List.flatMap_cons]

theorem encodeStream_append (a b : List Byte) :
    encodeStream t (a ++ b) = encodeStream t a ++ encodeStream t b := by
  simp only [encodeStream_eq_flatMap, List.flatMap_append]

theorem length_encodeStream (bytes : List Byte) : (encodeStream t bytes).length = 4 * bytes.length := by
  simp [encodeStream_eq_flatMap, List.length_flatMap, encodeByte, Nat.mul_comm]

end Encode

/-! `dec`, by what stands first in the stream. -/

section Decode
variable {w : Nat} {t : SymTable w} {syms : List (BitVec w)}

theorem inAlphabet_iff {x : BitVec w} : inAlphabet t x = true ↔ ∃ c, symbolToCode t x = some c :=
  Option.isSome_iff_exists

theorem inAlphabet_eq_false_iff {x : BitVec w} : inAlphabet t x = false ↔ symbolToCode t x = none := by
  simp [inAlphabet]

/-- A stream that stops inside its first run gives no byte and one of two errors. -/
theorem decodeStream_of_partial_run (some_left : syms ≠ []) (short : syms.length < 4) : decodeStream t syms =
    if syms.all (inAlphabet t) then ([], .err .truncatedStream) else ([], .err .invalidSymbol) := by
  refine decodeStream.eq_3 t syms some_left ?_
  rintro x0 x1 x2 x3 rest rfl
  simp only [List.length_cons] at short
  omega

theorem decodeStream_fst_of_short (short : syms.length < 4) : (decodeStream t syms).1 = [] := by
  by_cases h : syms = []
  · rw [h, decodeStream]
  · rw [decodeStream_of_partial_run h short]
    split <;> rfl

section Run
variable {x0 x1 x2 x3 : BitVec w} {c0 c1 c2 c3 : Code}

theorem decodeStream_of_run (h0 : symbolToCode t x0 = some c0) (h1 : symbolToCode t x1 = some c1)
    (h2 : symbolToCode t x2 = some c2) (h3 : symbolToCode t x3 = some c3) :
    decodeStream t (x0 :: x1 :: x2 :: x3 :: syms) =
      (pack c0 c1 c2 c3 :: (decodeStream t syms).1, (decodeStream t syms).2) := by
  simp only [decodeStream, h0, h1, h2, h3]

/-- A complete run gives its byte, or the pass ends there. -/
theorem decodeStream_run_cases (x0 x1 x2 x3 : BitVec w) :
    (∃ b, ∀ syms, decodeStream t (x0 :: x1 :: x2 :: x3 :: syms) =
      (b :: (decodeStream t syms).1, (decodeStream t syms).2)) ∨
    (∀ syms, decodeStream t (x0 :: x1 :: x2 :: x3 :: syms) = ([], .err .invalidSymbol)) := by
  simp only [decodeStream]
  split
  · exact .inl ⟨_, fun _ => rfl⟩
  · exact .inr fun _ => rfl

theorem decodeStream_run_of_inAlphabet
    (hall : (x0 :: x1 :: x2 :: x3 :: syms).all (inAlphabet t) = true) :
    ∃ b, decodeStream t (x0 :: x1 :: x2 :: x3 :: syms) =
      (b :: (decodeStream t syms).1, (decodeStream t syms).2) := by
  simp only [List.all_cons, Bool.and_eq_true, inAlphabet_iff] at hall
  obtain ⟨⟨_, h0⟩, ⟨_, h1⟩, ⟨_, h2⟩, ⟨_, h3⟩, -⟩ := hall
  exact ⟨_, decodeStream_of_run h0 h1 h2 h3⟩

end Run

/-- Symbols of the alphabet give a byte for each complete run. -/
theorem length_decodeStream (hall : syms.all (inAlphabet t) = true) :
    (decodeStream t syms).1.length = syms.length / 4 := by
  induction syms using run_induction with
  | short syms h => rw [decodeStream_fst_of_short h, Nat.div_eq_of_lt h]; rfl
  | run x0 x1 x2 x3 rest ih =>
    obtain ⟨b, hrun⟩ := decodeStream_run_of_inAlphabet hall
    have tail : rest.all (inAlphabet t) = true := by simp_all
    simp only [hrun, List.length_cons, ih tail]
    omega

/-- Symbols of the alphabet succeed if they stop at the end of a run. -/
theorem decodeStream_snd_of_inAlphabet (hall : syms.all (inAlphabet t) = true) (whole : syms.length % 4 = 0) :
    (decodeStream t syms).2 = .ok := by
  induction syms using run_induction with
  | short syms h =>
    have empty : syms = [] := List.eq_nil_of_length_eq_zero (by omega)
    rw [empty, decodeStream]
  | run x0 x1 x2 x3 rest ih =>
    obtain ⟨b, hrun⟩ := decodeStream_run_of_inAlphabet hall
    rw [hrun]
    rw [List.length_cons, List.length_cons, List.length_cons, List.length_cons] at whole
    exact ih (by simp_all) (by omega)

/-- The symbols left over after the last complete run give no byte. -/
theorem decodeStream_fst_take_runs (syms : List (BitVec w)) :
    (decodeStream t (syms.take (4 * (syms.length / 4)))).1 = (decodeStream t syms).1 := by
  induction syms using run_induction with
  | short syms h =>
    rw [decodeStream_fst_of_short h, Nat.div_eq_of_lt h]
    exact decodeStream_fst_of_short (by simp)
  | run x0 x1 x2 x3 rest ih =>
    have runs : 4 * ((x0 :: x1 :: x2 :: x3 :: rest).length / 4) = 4 * (rest.length / 4) + 4 := by
      simp only [List.length_cons]; omega
    rw [runs]
    simp only [List.take_succ_cons]
    rcases decodeStream_run_cases (t := t) x0 x1 x2 x3 with ⟨b, h⟩ | h
    · rw [h, h, ih]
    · rw [h, h]

/-- A stream decoded with success leaves the decoder between two runs, where the next stream begins. -/
theorem decodeStream_append {more : List (BitVec w)} (h : (decodeStream t syms).2 = .ok) :
    decodeStream t (syms ++ more) =
      ((decodeStream t syms).1 ++ (decodeStream t more).1, (decodeStream t more).2) := by
  induction syms using run_induction with
  | short syms short =>
    by_cases empty : syms = []
    · subst empty
      rfl
    · rw [decodeStream_of_partial_run empty short] at h
      split at h <;> cases h
  | run x0 x1 x2 x3 rest ih =>
    simp only [List.cons_append]
    rcases decodeStream_run_cases (t := t) x0 x1 x2 x3 with ⟨b, hrun⟩ | hrun
    · rw [hrun] at h
      rw [hrun, hrun, ih h]
      rfl
    · rw [hrun] at h
      cases h

/-! `dec` of `enc`. -/

theorem decodeStream_encodeStream (ht : t.WellFormed) (bytes : List Byte) :
    decodeStream t (encodeStream t bytes) = (bytes, .ok) := by
  have code := symbolToCode_codeToSymbol ht
  induction bytes with
  | nil => rfl
  | cons b bytes ih => calc decodeStream t (encodeByte t b ++ encodeStream t bytes)
      _ = (pack (group b 0) (group b 1) (group b 2) (group b 3) :: bytes, .ok) := by
        simp only [encodeByte, List.cons_append, List.nil_append,
          decodeStream_of_run (code _) (code _) (code _) (code _), ih]
      _ = (b :: bytes, .ok) := by rw [pack_group]

theorem all_inAlphabet_encodeStream (ht : t.WellFormed) (bytes : List Byte) :
    (encodeStream t bytes).all (inAlphabet t) = true := by
  simp [encodeStream_eq_flatMap, encodeByte, inAlphabet, symbolToCode_codeToSymbol ht]

end Decode

/-! The statements about the two functions. -/

/-- Settles O54. -/
theorem encodedLengthIsFourTimes : Obligations.EncodedLengthIsFourTimes := fun _ t => length_encodeStream t

/-- Settles O55. -/
theorem decodedLengthIsAQuarter : Obligations.DecodedLengthIsAQuarter := by
  intro w t syms n hall hlen
  refine ⟨decodeStream_snd_of_inAlphabet hall (by omega), ?_⟩
  rw [length_decodeStream hall]
  omega

/-- Settles O59. -/
theorem streamsConcatenate : Obligations.StreamsConcatenate := by
  refine fun w t => ⟨encodeStream_append t, fun syms more a h => ?_⟩
  rw [decodeStream_append (by rw [h]), h]

end Sys2Proof.Machine
end

section
/-! SUPPORT. Passes on the machine (spec/43_pass_semantics.md R151 to R154, R158, R159, R161): what a whole
encode pass and a decode pass over symbols of the alphabet leave behind, and that a pass that has ended
stays as it is. -/

namespace Sys2Proof.Machine

/-! A pass that has ended: only that unit's `START` is enabled. -/

section Ended
variable {i : Instr} {s t : State}

theorem encStart_or_encSt_of_enabled (hi : unitOf i = some .enc) (h : enabled i s = true) :
    i = .encStart ∨ s.encSt = .run := by
  cases i with
  | encStart => exact .inl rfl
  | encPut => exact .inr (enabled_encPut_iff.mp h).1
  | encEnd => exact .inr (enabled_encEnd_iff.mp h).1
  | encEmit => exact .inr (enabled_encEmit_iff.mp h).1
  | encIofail => exact .inr (enabled_encIofail_iff.mp h)
  | decSym | decEnd | decIofail | decBad | decStart | lutC2s | lutS2c => cases hi

theorem decStart_or_decSt_of_enabled (hi : unitOf i = some .dec) (h : enabled i s = true) :
    i = .decStart ∨ s.decSt = .run := by
  cases i with
  | decStart => exact .inl rfl
  | decSym => exact .inr (enabled_decSym_iff.mp h).1
  | decEnd => exact .inr (enabled_decEnd_iff.mp h)
  | decBad => exact .inr (enabled_decBad_iff.mp h)
  | decIofail => exact .inr (enabled_decIofail_iff.mp h)
  | encPut | encEnd | encIofail | encStart | encEmit | lutC2s | lutS2c => cases hi

theorem sameEncoder_after_of_ended (ended : s.encSt ≠ .run) (noStart : i ≠ .encStart) :
    SameEncoder (after s i) s := by
  have refl : SameEncoder s s := ⟨rfl, rfl, rfl, rfl, rfl, rfl⟩
  by_cases hi : unitOf i = some .enc
  · have off : enabled i s = false := Bool.eq_false_of_not_eq_true fun h =>
      (encStart_or_encSt_of_enabled hi h).elim noStart ended
    rwa [after_of_not_enabled off]
  · exact (sameEncoder_after_iff hi).mpr refl

theorem sameDecoder_after_of_ended (ended : s.decSt ≠ .run) (noStart : i ≠ .decStart) :
    SameDecoder (after s i) s := by
  have refl : SameDecoder s s := ⟨rfl, rfl, rfl, rfl, rfl⟩
  by_cases hi : unitOf i = some .dec
  · have off : enabled i s = false := Bool.eq_false_of_not_eq_true fun h =>
      (decStart_or_decSt_of_enabled hi h).elim noStart ended
    rwa [after_of_not_enabled off]
  · exact (sameDecoder_after_iff hi).mpr refl

theorem SameDecoder.trans {u : State} (h : SameDecoder s t) (h' : SameDecoder t u) : SameDecoder s u := by
  obtain ⟨hst, herr, hcur, hacc, hout⟩ := h
  obtain ⟨hst', herr', hcur', hacc', hout'⟩ := h'
  exact ⟨hst.trans hst', herr.trans herr', hcur.trans hcur', hacc.trans hacc', hout.trans hout'⟩

theorem sameDecoder_play_of_ended {events : List Instr} (ended : s.decSt ≠ .run)
    (noStart : .decStart ∉ events) : SameDecoder (play s events) s := by
  induction events generalizing s with
  | nil => exact ⟨rfl, rfl, rfl, rfl, rfl⟩
  | cons i rest ih =>
    rw [List.mem_cons, not_or] at noStart
    have first : SameDecoder (after s i) s := sameDecoder_after_of_ended ended (Ne.symm noStart.1)
    exact (ih (first.1 ▸ ended) noStart.2).trans first

theorem SameEncoder.encResult_and_encStatus_eq (h : SameEncoder s t) :
    s.encResult = t.encResult ∧ s.encStatus = t.encStatus := by
  obtain ⟨hst, herr, hcur, hvld, -, -⟩ := h
  simp only [State.encResult, State.encStatus, hst, herr, hcur, hvld, and_self]

theorem SameDecoder.decResult_and_decStatus_eq (h : SameDecoder s t) :
    s.decResult = t.decResult ∧ s.decStatus = t.decStatus := by
  obtain ⟨hst, herr, hcur, -, -⟩ := h
  simp only [State.decResult, State.decStatus, hst, herr, hcur, and_self]

end Ended

/-! What the status says of a pass (R151). -/

section Result
variable {st : Status} {e : ErrKind}

theorem passResult_of_done (h : st = .done) : passResult st e = some .ok := by rw [h]; rfl

theorem passResult_of_fail (h : st = .fail) : passResult st e = some (.err e) := by rw [h]; rfl

theorem passResult_of_run (h : st = .run) : passResult st e = none := by rw [h]; rfl

end Result

/-- Settles O26: a result means that the pass has ended, and then the whole unit waits for its `START`. -/
theorem resultIsStableUntilTheNextStart : Obligations.ResultIsStableUntilTheNextStart := by
  refine ⟨fun s => ⟨passResult_of_done, passResult_of_fail, passResult_of_run,
      passResult_of_done, passResult_of_fail, passResult_of_run⟩,
    fun i s t h => ?stable, fun s => ⟨fun inv hdone => ?encDone, fun inv hdone => ?decDone⟩⟩
  case stable =>
    obtain rfl := exec_next_iff.mp h
    exact ⟨fun ended noStart =>
        (sameEncoder_after_of_ended (mt passResult_of_run ended) noStart).encResult_and_encStatus_eq,
      fun ended noStart =>
        (sameDecoder_after_of_ended (mt passResult_of_run ended) noStart).decResult_and_decStatus_eq⟩
  case encDone => rw [inv.e2.2 (by simp [hdone])]; rfl
  case decDone =>
    have noError : s.decErr = .none := not_not.mp (mt inv.d1.mp (by simp [hdone]))
    rw [noError]; rfl

/-! An encode pass (R152). -/

section EncodePass
variable {s : State}

theorem play_encByteEvents (hrun : s.encSt = .run) (free : s.encVld = false) (hcur : s.encCur = 0) (b : Byte) :
    play s (encByteEvents b) = { s with
      encByte := b, encCur := 0, encVld := false, encOut := s.encOut ++ encodeByte Config.sym b } :=
  play_take_encByteEvents hrun free hcur (k := 4) le_rfl

theorem play_flatMap_encByteEvents (hrun : s.encSt = .run) (free : s.encVld = false) (hcur : s.encCur = 0)
    (bytes : List Byte) : play s (bytes.flatMap encByteEvents) = { s with
      encByte := bytes.getLast?.getD s.encByte, encCur := 0, encVld := false
      encOut := s.encOut ++ encodeStream Config.sym bytes } := by
  induction bytes generalizing s with
  | nil => simp [encodeStream, ← free, ← hcur]
  | cons b bytes ih =>
    rw [List.flatMap_cons, play_append, play_encByteEvents hrun free hcur, ih]
    · simp [encodeStream, List.getLast?_cons]
    · exact hrun
    · rfl
    · rfl

theorem play_encPassEvents (idle : s.encSt ≠ .run) (bytes : List Byte) :
    play s (encPassEvents bytes) = { s with
      encSt := .done, encErr := .none, encCur := 0, encVld := false
      encByte := bytes.getLast?.getD s.encByte
      encOut := s.encOut ++ encodeStream Config.sym bytes } := by
  have opened : after s .encStart = s.openPass .enc := after_of_enabled (enabled_encStart_iff.mpr idle)
  simp only [encPassEvents, play_append, play_cons, play_nil, opened]
  rw [play_flatMap_encByteEvents (s := s.openPass .enc) rfl rfl rfl,
    after_of_enabled (enabled_encEnd_iff.mpr ⟨rfl, rfl⟩)]
  rfl

end EncodePass

/-! Codes taken one after another (R131). -/

section TakeCode
variable (s : State) (c : Code)

@[simp] theorem State.takeCode_decSt : (s.takeCode c).decSt = s.decSt := by
  rw [State.takeCode]; split <;> rfl

@[simp] theorem State.takeCode_byteSinkReady : (s.takeCode c).byteSinkReady = s.byteSinkReady := by
  rw [State.takeCode]; split <;> rfl

/-- The cursor counts modulo 4. -/
@[simp] theorem State.takeCode_decCur : (s.takeCode c).decCur = s.decCur + 1 := by
  by_cases last : s.decCur = 3
  · rw [State.takeCode_of_decCur_eq_three last, last]; rfl
  · rw [State.takeCode_of_decCur_ne_three last]

variable {s c}

theorem State.takeCode_decOut_of_decCur_ne_three (h : s.decCur ≠ 3) : (s.takeCode c).decOut = s.decOut := by
  rw [State.takeCode_of_decCur_ne_three h]

/-- Four codes taken from the start of a run give their byte. -/
theorem foldl_takeCode_run (start : s.decCur = 0) (c0 c1 c2 c3 : Code) :
    [c0, c1, c2, c3].foldl State.takeCode s = { s with
      decOut := s.decOut ++ [pack c0 c1 c2 c3], decAcc := place c0 0 ||| place c1 1 ||| place c2 2
      decCur := 0 } := by
  simp [State.takeCode, State.putByte, accumulate, pack, start]

variable {codes : List Code}

theorem foldl_takeCode_decSt : (codes.foldl State.takeCode s).decSt = s.decSt := by
  induction codes generalizing s with
  | nil => rfl
  | cons c codes ih => rw [List.foldl_cons, ih, State.takeCode_decSt]

theorem foldl_takeCode_decCur :
    (codes.foldl State.takeCode s).decCur = s.decCur + BitVec.ofNat 2 codes.length := by
  induction codes generalizing s with
  | nil => simp
  | cons c codes ih =>
    rw [List.foldl_cons, ih, State.takeCode_decCur, List.length_cons, Nat.add_comm, BitVec.ofNat_add,
      BitVec.add_assoc]
    rfl

/-- Codes that do not reach the end of the run give no byte. -/
theorem foldl_takeCode_decOut_of_partial_run (h : s.decCur.toNat + codes.length < 4) :
    (codes.foldl State.takeCode s).decOut = s.decOut := by
  induction codes generalizing s with
  | nil => rfl
  | cons c codes ih =>
    rw [List.length_cons] at h
    have before : s.decCur ≠ 3 := fun last => by
      have three : s.decCur.toNat = 3 := by rw [last]; rfl
      omega
    have next : (s.takeCode c).decCur.toNat = s.decCur.toNat + 1 := by
      rw [State.takeCode_decCur, BitVec.toNat_add]
      exact Nat.mod_eq_of_lt (by simp; omega)
    rw [List.foldl_cons, ih (by omega), State.takeCode_decOut_of_decCur_ne_three before]

/-- From the start of a run, codes give the bytes that `dec` gives for their symbols. -/
theorem foldl_takeCode_decOut (start : s.decCur = 0) : (codes.foldl State.takeCode s).decOut =
    s.decOut ++ (decodeStream Config.sym (codes.map (codeToSymbol Config.sym))).1 := by
  have code := symbolToCode_codeToSymbol Config.sym_wellFormed
  induction codes using run_induction generalizing s with
  | short codes h =>
    rw [decodeStream_fst_of_short (by simpa using h), List.append_nil]
    exact foldl_takeCode_decOut_of_partial_run (by simpa [start] using h)
  | run c0 c1 c2 c3 rest ih =>
    simp only [List.map_cons, decodeStream_of_run (code c0) (code c1) (code c2) (code c3)]
    calc (rest.foldl State.takeCode ([c0, c1, c2, c3].foldl State.takeCode s)).decOut
      _ = s.decOut ++ [pack c0 c1 c2 c3] ++
          (decodeStream Config.sym (rest.map (codeToSymbol Config.sym))).1 := by
        rw [foldl_takeCode_run start, ih rfl]
      _ = s.decOut ++ (pack c0 c1 c2 c3 ::
          (decodeStream Config.sym (rest.map (codeToSymbol Config.sym))).1) := List.append_assoc ..

end TakeCode

/-! A decode pass (R153). -/

/-- A stream within the alphabet is the symbols of some codes. -/
theorem exists_codes_of_all_inAlphabet {w : Nat} {t : SymTable w} {syms : List (BitVec w)}
    (hall : syms.all (inAlphabet t) = true) : ∃ codes : List Code, codes.map (codeToSymbol t) = syms := by
  have entries : syms ∈ {l | ∀ x ∈ l, x ∈ Set.range (codeToSymbol t)} := fun x hx => by
    obtain ⟨c, hc⟩ := inAlphabet_iff.mp (List.all_eq_true.mp hall x hx)
    exact ⟨c, codeToSymbol_of_symbolToCode hc⟩
  rwa [← Set.range_list_map] at entries

section DecodePass
variable {s : State} {syms : List CP}

/-- With a sink that takes every byte, each `DEC.SYM` of a symbol takes its code. -/
theorem play_decSyms (hrun : s.decSt = .run) (ready : s.byteSinkReady = true) (codes : List Code) :
    play s ((codes.map (codeToSymbol Config.sym)).map .decSym) = codes.foldl State.takeCode s := by
  induction codes generalizing s with
  | nil => rfl
  | cons c codes ih =>
    have taken : after s (.decSym (codeToSymbol Config.sym c)) = s.takeCode c := (exec_next_iff.mp <|
      exec_decSym_of_code (symbolToCode_codeToSymbol Config.sym_wellFormed c) hrun fun _ => ready).symm
    rw [List.map_cons, List.map_cons, play_cons, taken, List.foldl_cons]
    exact ih (by simpa using hrun) (by simpa using ready)

/-- What a decode pass opened in `s` has come to in `t`, after the symbols `syms` and no other event. -/
structure MidDecodePass (s : State) (syms : List CP) (t : State) : Prop where
  running : t.decSt = .run
  cursor : t.decCur = BitVec.ofNat 2 syms.length
  bytes : t.decOut = s.decOut ++ (decodeStream Config.sym syms).1

theorem midDecodePass_of_inAlphabet (idle : s.decSt ≠ .run) (ready : s.byteSinkReady = true)
    (hall : syms.all (inAlphabet Config.sym) = true) :
    MidDecodePass s syms (play s (.decStart :: syms.map .decSym)) := by
  obtain ⟨codes, rfl⟩ := exists_codes_of_all_inAlphabet hall
  have opened : after s .decStart = s.openPass .dec := after_of_enabled (enabled_decStart_iff.mpr idle)
  rw [play_cons, opened, play_decSyms (s := s.openPass .dec) rfl ready]
  exact ⟨foldl_takeCode_decSt, by simp [foldl_takeCode_decCur], foldl_takeCode_decOut rfl⟩

namespace MidDecodePass
variable {t : State} (mid : MidDecodePass s syms t)
include mid

theorem cursor_mod : t.decCur = BitVec.ofNat 2 (syms.length % 4) := by
  rw [mid.cursor]
  exact BitVec.eq_of_toNat_eq (by simp)

theorem cursor_eq_zero_iff : t.decCur = 0 ↔ syms.length % 4 = 0 := by
  rw [mid.cursor, ← BitVec.toNat_inj, BitVec.toNat_ofNat]; rfl

theorem bytes_of_runs :
    t.decOut = s.decOut ++ (decodeStream Config.sym (syms.take (4 * (syms.length / 4)))).1 := by
  rw [mid.bytes, decodeStream_fst_take_runs]

theorem length_bytes (hall : syms.all (inAlphabet Config.sym) = true) :
    t.decOut.length = s.decOut.length + syms.length / 4 := by
  rw [mid.bytes, List.length_append, length_decodeStream hall]

end MidDecodePass

theorem after_decEnd_of_start (hrun : s.decSt = .run) (start : s.decCur = 0) :
    after s .decEnd = s.finishPass .dec := by
  rw [after_of_enabled (enabled_decEnd_iff.mpr hrun), effect, if_pos start]

theorem after_decEnd_of_partial_run (hrun : s.decSt = .run) (cut : s.decCur ≠ 0) :
    after s .decEnd = s.raise .dec .truncatedStream := by
  rw [after_of_enabled (enabled_decEnd_iff.mpr hrun), effect, if_neg cut]

theorem play_decPassEvents : play s (decPassEvents syms) =
    after (play s (.decStart :: syms.map .decSym)) .decEnd := play_append ..

end DecodePass

/-! The statements about passes on the machine. -/

/-- Settles O57. -/
theorem truncatedStreamIsReported : Obligations.TruncatedStreamIsReported := by
  intro s syms idle ready hall cut
  have mid := midDecodePass_of_inAlphabet idle ready hall
  rw [play_decPassEvents, after_decEnd_of_partial_run mid.running (mt mid.cursor_eq_zero_iff.mp cut)]
  exact ⟨rfl, rfl, mid.cursor_mod, mid.bytes_of_runs, mid.length_bytes hall⟩

/-- Settles O56: what follows the value outside the alphabet meets a decoder whose pass has ended. -/
theorem outsideSymbolEndsThePass : Obligations.OutsideSymbolEndsThePass := by
  intro s good rest x idle ready hall outside
  have mid := midDecodePass_of_inAlphabet idle ready hall
  have failed := (exec_next_iff.mp (exec_decSym_of_miss (inAlphabet_eq_false_iff.mp outside) mid.running)).symm
  have events : decPassEvents (good ++ x :: rest) =
      (.decStart :: good.map .decSym) ++ .decSym x :: (rest.map .decSym ++ [.decEnd]) := by
    simp [decPassEvents]
  rw [events, play_append, play_cons, failed]
  obtain ⟨hst, herr, hcur, -, hout⟩ := sameDecoder_play_of_ended
    (s := (play s (.decStart :: good.map .decSym)).raise .dec .invalidSymbol)
    (events := rest.map .decSym ++ [.decEnd]) (by simp) (by simp)
  rw [hst, herr, hcur, hout]
  exact ⟨rfl, rfl, mid.cursor_mod, mid.bytes_of_runs, mid.length_bytes hall⟩

/-- Settles O53: the encode pass leaves the decoder alone and emits `enc` of the bytes, whole runs of symbols
of the alphabet. -/
theorem decodingTheEncodingGivesTheBytes : Obligations.DecodingTheEncodingGivesTheBytes := by
  refine ⟨fun _ _ => decodeStream_encodeStream, fun s bytes emitted encIdle decIdle ready hout => ?_⟩
  have encoded := play_encPassEvents encIdle bytes
  have emitted_eq : encodeStream Config.sym bytes = emitted := by
    rw [encoded] at hout
    exact List.append_cancel_left hout
  subst emitted_eq
  have mid : MidDecodePass (play s (encPassEvents bytes)) _ _ :=
    midDecodePass_of_inAlphabet (by rwa [encoded]) (by rwa [encoded])
      (all_inAlphabet_encodeStream Config.sym_wellFormed bytes)
  have whole := mid.cursor_eq_zero_iff.mpr (by rw [length_encodeStream]; omega)
  rw [play_decPassEvents, after_decEnd_of_start mid.running whole]
  refine ⟨?_, rfl⟩
  rw [State.finishDec_decOut, mid.bytes, decodeStream_encodeStream Config.sym_wellFormed, encoded]

/-- Settles O58: on the encoder, the pass over no byte; on the decoder, its two events. -/
theorem emptyStreamGivesNothing : Obligations.EmptyStreamGivesNothing := by
  refine ⟨fun _ _ => ⟨rfl, rfl⟩, fun s idle => ?_, fun s idle => ?_⟩
  · rw [show [.encStart, .encEnd] = encPassEvents [] from rfl, play_encPassEvents idle]
    exact ⟨rfl, List.append_nil _⟩
  · have opened : after s .decStart = s.openPass .dec := after_of_enabled (enabled_decStart_iff.mpr idle)
    rw [play_cons, play_cons, play_nil, opened, after_decEnd_of_start rfl rfl]
    exact ⟨rfl, rfl⟩

end Sys2Proof.Machine
end

section
/-! SUPPORT. How a pass fails (spec/60_exceptions.md R170, R179): which event raises which error kind, and
what an operation can do to the status and the error of a unit. -/

namespace Sys2Proof.Machine

/-- The table of R170: the events that raise an error kind in a unit, each with its cause in `s`. -/
inductive Raises (s : State) : Instr → CodecUnit → ErrKind → Prop
  | encIofail : Raises s .encIofail .enc .ioFailure
  | decIofail : Raises s .decIofail .dec .ioFailure
  | decSym {x : CP} (outside : symbolToCode Config.sym x = none) : Raises s (.decSym x) .dec .invalidSymbol
  | decBad : Raises s .decBad .dec .malformedTextEncoding
  | decEnd (cut : s.decCur ≠ 0) : Raises s .decEnd .dec .truncatedStream

section
variable (s : State) (i : Instr)

/-! An operation leaves a unit's status and error, or it opens, finishes or fails its pass. -/

theorem encStatus_after_cases :
    ((after s i).encSt = s.encSt ∧ (after s i).encErr = s.encErr) ∨
    after s i = s.openPass .enc ∨
    (s.encSt = .run ∧ after s i = s.finishPass .enc) ∨
    (∃ k, Raises s i .enc k ∧ after s i = s.raise .enc k) := by
  by_cases hi : unitOf i = some .enc
  · rw [after_eq]
    split
    case isFalse => exact .inl ⟨rfl, rfl⟩
    case isTrue on =>
      cases i with
      | encPut | encEmit => exact .inl ⟨rfl, rfl⟩
      | encStart => exact .inr (.inl rfl)
      | encEnd => exact .inr (.inr (.inl ⟨(enabled_encEnd_iff.mp on).1, rfl⟩))
      | encIofail => exact .inr (.inr (.inr ⟨_, .encIofail, rfl⟩))
      | decSym | decEnd | decIofail | decBad | decStart | lutC2s | lutS2c => cases hi
  · obtain ⟨hst, herr, -⟩ := (sameEncoder_after_iff hi).mpr ⟨rfl, rfl, rfl, rfl, rfl, rfl⟩
    exact .inl ⟨hst, herr⟩

theorem decStatus_after_cases :
    ((after s i).decSt = s.decSt ∧ (after s i).decErr = s.decErr) ∨
    after s i = s.openPass .dec ∨
    (s.decSt = .run ∧ after s i = s.finishPass .dec) ∨
    (∃ k, Raises s i .dec k ∧ after s i = s.raise .dec k) := by
  by_cases hi : unitOf i = some .dec
  · rw [after_eq]
    split
    case isFalse => exact .inl ⟨rfl, rfl⟩
    case isTrue on =>
      cases i with
      | decSym x =>
        rw [effect]
        rcases takeSymbol_cases s x with ⟨outside, heq⟩ | ⟨_, _, _, heq⟩ | ⟨_, _, _, heq⟩
        · exact .inr (.inr (.inr ⟨_, .decSym outside, heq⟩))
        · exact .inl (heq ▸ ⟨rfl, rfl⟩)
        · exact .inl (heq ▸ ⟨rfl, rfl⟩)
      | decEnd =>
        rw [effect]
        split
        case isTrue => exact .inr (.inr (.inl ⟨enabled_decEnd_iff.mp on, rfl⟩))
        case isFalse cut => exact .inr (.inr (.inr ⟨_, .decEnd cut, rfl⟩))
      | decIofail => exact .inr (.inr (.inr ⟨_, .decIofail, rfl⟩))
      | decBad => exact .inr (.inr (.inr ⟨_, .decBad, rfl⟩))
      | decStart => exact .inr (.inl rfl)
      | encPut | encEnd | encIofail | encStart | encEmit | lutC2s | lutS2c => cases hi
  · obtain ⟨hst, herr, -⟩ := (sameDecoder_after_iff hi).mpr ⟨rfl, rfl, rfl, rfl, rfl⟩
    exact .inl ⟨hst, herr⟩

end

section
variable {s t : State} {i : Instr}

/-! A unit that has newly failed did so by a row of the table. -/

theorem raises_enc_of_newly_failed (before : s.encSt ≠ .fail) (failed : (after s i).encSt = .fail) :
    ∃ k, Raises s i .enc k ∧ after s i = s.raise .enc k := by
  rcases encStatus_after_cases s i with ⟨hst, -⟩ | heq | ⟨-, heq⟩ | raised
  · exact absurd (hst ▸ failed) before
  · simp [heq] at failed
  · simp [heq] at failed
  · exact raised

theorem raises_dec_of_newly_failed (before : s.decSt ≠ .fail) (failed : (after s i).decSt = .fail) :
    ∃ k, Raises s i .dec k ∧ after s i = s.raise .dec k := by
  rcases decStatus_after_cases s i with ⟨hst, -⟩ | heq | ⟨-, heq⟩ | raised
  · exact absurd (hst ▸ failed) before
  · simp [heq] at failed
  · simp [heq] at failed
  · exact raised

/-! An error stands only with FAIL: a pass opens with none, finishes with that of RUN, and fails with one. -/

theorem encErr_after_eq_none (inv : s.encSt ≠ .fail → s.encErr = .none) (ok : (after s i).encSt ≠ .fail) :
    (after s i).encErr = .none := by
  rcases encStatus_after_cases s i with ⟨hst, herr⟩ | heq | ⟨hrun, heq⟩ | ⟨_, -, heq⟩
  · exact herr.trans (inv (hst ▸ ok))
  · rw [heq]; rfl
  · rw [heq]; exact inv (by simp [hrun])
  · simp [heq] at ok

theorem decErr_after_eq_none (inv : s.decSt ≠ .fail → s.decErr = .none) (ok : (after s i).decSt ≠ .fail) :
    (after s i).decErr = .none := by
  rcases decStatus_after_cases s i with ⟨hst, herr⟩ | heq | ⟨hrun, heq⟩ | ⟨_, -, heq⟩
  · exact herr.trans (inv (hst ▸ ok))
  · rw [heq]; rfl
  · rw [heq]; exact inv (by simp [hrun])
  · simp [heq] at ok

/-! The frames of `sameEncoder_after_of_ended` and `sameDecoder_after_of_ended`, read from the state before. -/

theorem SameEncoder.symm (h : SameEncoder s t) : SameEncoder t s := by
  obtain ⟨hst, herr, hcur, hvld, hbyte, hout⟩ := h
  exact ⟨hst.symm, herr.symm, hcur.symm, hvld.symm, hbyte.symm, hout.symm⟩

theorem SameDecoder.symm (h : SameDecoder s t) : SameDecoder t s := by
  obtain ⟨hst, herr, hcur, hacc, hout⟩ := h
  exact ⟨hst.symm, herr.symm, hcur.symm, hacc.symm, hout.symm⟩

end

theorem ErrKind.code_toNat_le_four (k : ErrKind) : k.code.toNat ≤ 4 := by cases k <;> decide

/-- Settles O27: the causes and codes are read off the rows of `Raises`. -/
theorem onlyTheseEventsFailAPass : Obligations.OnlyTheseEventsFailAPass := by
  refine ⟨⟨rfl, rfl, rfl, rfl, rfl⟩, ErrKind.code_toNat_le_four, fun i s t h before failed => ?enc,
    fun i s t h before failed => ?dec, fun i s t h => ?noError⟩ <;> obtain rfl := exec_next_iff.mp h
  case enc =>
    obtain ⟨k, row, heq⟩ := raises_enc_of_newly_failed before failed
    cases row
    exact ⟨rfl, heq ▸ rfl⟩
  case dec =>
    obtain ⟨k, row, heq⟩ := raises_dec_of_newly_failed before failed
    have code : (after s i).decErr = k := heq ▸ rfl
    cases row with
    | decIofail => exact .inl ⟨rfl, code⟩
    | decSym outside => exact .inr (.inl ⟨_, rfl, outside, code⟩)
    | decBad => exact .inr (.inr (.inl ⟨rfl, code⟩))
    | decEnd cut => exact .inr (.inr (.inr ⟨rfl, cut, code⟩))
  case noError => exact ⟨encErr_after_eq_none, decErr_after_eq_none⟩

/-- Settles O28: a row of `Raises` makes the next state by `State.raise`, and a failed pass has ended. -/
theorem failingStepWritesStatusAndErrorOnly : Obligations.FailingStepWritesStatusAndErrorOnly := by
  intro i s t h
  obtain rfl := exec_next_iff.mp h
  refine ⟨fun before failed => ?enc, fun before failed => ?dec,
    fun failed noStart => (sameEncoder_after_of_ended (by simp [failed]) noStart).symm,
    fun failed noStart => (sameDecoder_after_of_ended (by simp [failed]) noStart).symm⟩
  case enc =>
    obtain ⟨k, row, heq⟩ := raises_enc_of_newly_failed before failed
    cases row
    exact ⟨rfl, heq⟩
  case dec =>
    obtain ⟨k, row, heq⟩ := raises_dec_of_newly_failed before failed
    refine ⟨k, heq, ?_⟩
    cases row with
    | decIofail => exact .inl ⟨rfl, rfl⟩
    | decSym => exact .inr (.inl ⟨_, rfl, rfl⟩)
    | decBad => exact .inr (.inr (.inl ⟨rfl, rfl⟩))
    | decEnd => exact .inr (.inr (.inr ⟨rfl, rfl⟩))

end Sys2Proof.Machine
end

section
/-! SUPPORT. What a unit's status lets happen (spec/70_reset_and_hazards.md R204). -/

namespace Sys2Proof.Machine

/-- Settles O29: an ended pass is touched by its `START` only, and in RUN the guard of `START` is off. -/
theorem onlyStartOpensAPass : Obligations.OnlyStartOpensAPass := by
  refine fun i s t h => ⟨fun ended noStart => ?encEnded, fun ended noStart => ?decEnded, ?encRun, ?decRun⟩
  case encEnded =>
    rw [exec_next_iff.mp h]
    exact (sameEncoder_after_of_ended ended noStart).symm
  case decEnded =>
    rw [exec_next_iff.mp h]
    exact (sameDecoder_after_of_ended ended noStart).symm
  case encRun =>
    rintro hrun rfl
    exact eq_of_exec_of_not_enabled (fun on => enabled_encStart_iff.mp on hrun) h
  case decRun =>
    rintro hrun rfl
    exact eq_of_exec_of_not_enabled (fun on => enabled_decStart_iff.mp on hrun) h

end Sys2Proof.Machine
end

section
/-! SUPPORT. The round trip of the port words (spec/30_encoding.md R74 to R76, R86): a word is read back from
its wires, an operation from its word, and a word selects operations of its own port only. -/

namespace Sys2Proof

/-- Whatever stands on a port's wires is read back as it is. -/
theorem readPort_portBits (w : PortWord) : readPort (portOfWord w) (portBits w) = w := by
  cases w with
  | encEw w => simp only [portOfWord, portBits, readPort, BitVec.ofNat_toNat, BitVec.setWidth_eq]
  | decEw w =>
    simp only [portOfWord, portBits, readPort, BitVec.ofNat_toNat, BitVec.setWidth_eq, decWordOfBits_decWordBits]
  | symbolTaken => rfl
  | c2sIn c => simp only [portOfWord, portBits, readPort, BitVec.ofNat_toNat, BitVec.setWidth_eq]
  | s2cIn x => simp only [portOfWord, portBits, readPort, BitVec.ofNat_toNat, BitVec.setWidth_eq]

theorem decode_encode (i : Instr) : decode (encode i) = .ok i := by
  cases i with
  | encPut b => rw [encode, decode_encEw_put (encKind_encWord 0 b), encData_encWord]
  | encEnd => exact decode_encEw_end (encKind_encWord 1 0)
  | encIofail => exact decode_encEw_iofail (encKind_encWord 2 0)
  | encStart => exact decode_encEw_start (encKind_encWord 4 0)
  | decSym => exact decode_decEw_sym rfl
  | decEnd => exact decode_decEw_end rfl
  | decIofail => exact decode_decEw_iofail rfl
  | decBad => exact decode_decEw_bad rfl
  | decStart => exact decode_decEw_start rfl
  | encEmit | lutC2s | lutS2c => rfl

theorem portOf_eq_portOfWord_of_decode {w : PortWord} {i : Instr} (h : decode w = .ok i) :
    portOf i = portOfWord w := by
  cases w with
  | encEw w => simp only [decode, decodeEnc] at h; split at h <;> cases h <;> rfl
  | decEw w => simp only [decode, decodeDec] at h; split at h <;> cases h <;> rfl
  | symbolTaken | c2sIn | s2cIn => cases h; rfl

/-- Settles O1: the wires give back the word (`readPort_portBits`), and the word the operation. -/
theorem decodeOfEncodeIsTheInstruction : Obligations.DecodeOfEncodeIsTheInstruction := by
  intro i
  refine ⟨decode_encode i, ?_⟩
  rw [portOf_eq_portOfWord_of_decode (decode_encode i), readPort_portBits, decode_encode]

/-- Settles O5: every word of the list is evaluated, but a symbol value, which the table draws with 21 bits,
is still to be taken to the width of the build. -/
theorem vectorWordsDecode : Obligations.VectorWordsDecode := by
  have symbol : decodeTableWord 24 0x10FFFF = some (.decSym 0x10FFFF) := by
    calc decodeTableWord 24 0x10FFFF
      _ = some (.decSym ((0x10FFFF#21).setWidth Config.cpw)) := rfl
      _ = some (.decSym 0x10FFFF) := by rw [← BitVec.ofNat_toNat]; rfl
  exact ⟨rfl, rfl, rfl, rfl, symbol, rfl, rfl, rfl, rfl, rfl, rfl⟩

end Sys2Proof
end

section
/-! SUPPORT. The events of each unit, said once: in which state each happens and what it makes of it
(spec/41_encoder.md R110 to R115, spec/42_decoder.md R130 to R135). -/

namespace Sys2Proof.Machine

theorem SameEncoder.refl (s : State) : SameEncoder s s := ⟨rfl, rfl, rfl, rfl, rfl, rfl⟩

theorem SameDecoder.refl (s : State) : SameDecoder s s := ⟨rfl, rfl, rfl, rfl, rfl⟩

/-- The events of the encoder: the operation, when it happens in `s`, and the next state. -/
inductive EncEvent (s : State) : Instr → State → Prop
  | start (idle : s.encSt ≠ .run) : EncEvent s .encStart (s.openPass .enc)
  | put (b : Byte) (hrun : s.encSt = .run) (free : s.encVld = false) :
      EncEvent s (.encPut b) { s with encByte := b, encVld := true }
  | emit (hrun : s.encSt = .run) (held : s.encVld = true) : EncEvent s .encEmit s.emit
  | finish (hrun : s.encSt = .run) (free : s.encVld = false) : EncEvent s .encEnd (s.finishPass .enc)
  | fail (hrun : s.encSt = .run) : EncEvent s .encIofail (s.raise .enc .ioFailure)

/-- The events of the decoder; a pass fails by a row of `Raises`. -/
inductive DecEvent (s : State) : Instr → State → Prop
  | start (idle : s.decSt ≠ .run) : DecEvent s .decStart (s.openPass .dec)
  | take {x : CP} {c : Code} (hx : symbolToCode Config.sym x = some c) (hrun : s.decSt = .run) :
      DecEvent s (.decSym x) (s.takeCode c)
  | finish (hrun : s.decSt = .run) (whole : s.decCur = 0) : DecEvent s .decEnd (s.finishPass .dec)
  | fail {i : Instr} {k : ErrKind} (row : Raises s i .dec k) (hrun : s.decSt = .run) :
      DecEvent s i (s.raise .dec k)

/-! Every operation is an event of the unit or leaves the unit as it is. -/

section Inversion
variable (s : State) (i : Instr)

theorem encEvent_of_enabled (hi : unitOf i = some .enc) (on : enabled i s = true) : EncEvent s i (after s i) := by
  rw [after_of_enabled on]
  cases i with
  | encStart => exact .start (enabled_encStart_iff.mp on)
  | encPut b => exact .put b (enabled_encPut_iff.mp on).1 (enabled_encPut_iff.mp on).2
  | encEmit => exact .emit (enabled_encEmit_iff.mp on).1 (enabled_encEmit_iff.mp on).2
  | encEnd => exact .finish (enabled_encEnd_iff.mp on).1 (enabled_encEnd_iff.mp on).2
  | encIofail => exact .fail (enabled_encIofail_iff.mp on)
  | decSym | decEnd | decIofail | decBad | decStart | lutC2s | lutS2c => cases hi

theorem encEvent_or_sameEncoder : EncEvent s i (after s i) ∨ SameEncoder (after s i) s := by
  by_cases hi : unitOf i = some .enc
  · cases on : enabled i s
    · rw [after_of_not_enabled on]; exact .inr (.refl s)
    · exact .inl (encEvent_of_enabled s i hi on)
  · exact .inr ((sameEncoder_after_iff hi).mpr (.refl s))

theorem decEvent_takeSymbol (x : CP) (hrun : s.decSt = .run) : DecEvent s (.decSym x) (s.takeSymbol x) := by
  rw [State.takeSymbol]
  split
  case h_1 hx => exact .fail (.decSym hx) hrun
  case h_2 hx => exact .take hx hrun

theorem decEvent_decEnd (hrun : s.decSt = .run) : DecEvent s .decEnd (effect .decEnd s) := by
  rw [effect]
  split
  case isTrue whole => exact .finish hrun whole
  case isFalse cut => exact .fail (.decEnd cut) hrun

theorem decEvent_of_enabled (hi : unitOf i = some .dec) (on : enabled i s = true) : DecEvent s i (after s i) := by
  rw [after_of_enabled on]
  cases i with
  | decStart => exact .start (enabled_decStart_iff.mp on)
  | decSym x => exact decEvent_takeSymbol s x (enabled_decSym_iff.mp on).1
  | decEnd => exact decEvent_decEnd s (enabled_decEnd_iff.mp on)
  | decBad => exact .fail .decBad (enabled_decBad_iff.mp on)
  | decIofail => exact .fail .decIofail (enabled_decIofail_iff.mp on)
  | encPut | encEnd | encIofail | encStart | encEmit | lutC2s | lutS2c => cases hi

theorem decEvent_or_sameDecoder : DecEvent s i (after s i) ∨ SameDecoder (after s i) s := by
  by_cases hi : unitOf i = some .dec
  · cases on : enabled i s
    · rw [after_of_not_enabled on]; exact .inr (.refl s)
    · exact .inl (decEvent_of_enabled s i hi on)
  · exact .inr ((sameDecoder_after_iff hi).mpr (.refl s))

end Inversion

/-! A property of a unit alone is kept by every step if `RESET` and the unit's events keep it. -/

section Invariant
variable {P : State → Prop} {s t : State}

/-- A property that changes of the environment, `RESET` and operations keep, every step keeps. -/
theorem step_keeps
    (env : ∀ {u} p q r rest, P u → P { u with encPort := p, decPort := q, byteSinkReady := r, host := rest })
    (reset : ∀ {u}, P u → P u.resetBlock) (operation : ∀ {u} i, P u → P (after u i))
    (hs : P s) (h : step s = .next t) : P t := by
  rcases step_cases h with ⟨rest, rfl⟩ | ⟨p, q, r, rest, rfl⟩ | ⟨i, rest, p, q, rfl⟩
  · exact env _ _ _ rest (reset hs)
  · exact env p q r rest hs
  · exact env p q _ _ (operation i (env _ _ _ rest hs))

theorem step_keeps_of_encEvent (congr : ∀ {u v}, SameEncoder u v → P u → P v)
    (reset : ∀ {u}, P u → P u.resetBlock) (event : ∀ {u v i}, EncEvent u i v → P u → P v) :
    P s → step s = .next t → P t := by
  refine step_keeps (fun {u} _ _ _ _ => congr (.refl u)) reset fun {u} i hu => ?_
  rcases encEvent_or_sameEncoder u i with ev | same
  · exact event ev hu
  · exact congr same.symm hu

theorem step_keeps_of_decEvent (congr : ∀ {u v}, SameDecoder u v → P u → P v)
    (reset : ∀ {u}, P u → P u.resetBlock) (event : ∀ {u v i}, DecEvent u i v → P u → P v) :
    P s → step s = .next t → P t := by
  refine step_keeps (fun {u} _ _ _ _ => congr (.refl u)) reset fun {u} i hu => ?_
  rcases decEvent_or_sameDecoder u i with ev | same
  · exact event ev hu
  · exact congr same.symm hu

end Invariant

end Sys2Proof.Machine
end

section
/-! SUPPORT. The invariants are kept by the events of each unit (spec/10_state.md R26, R31;
spec/43_pass_semantics.md R157). -/

namespace Sys2Proof.Machine

section Kept
variable {s t : State} {i : Instr}

/-! The encoder: E1 to E5, and the closure of `EncOut` in the alphabet. -/

theorem EncoderInvariant.congr (h : SameEncoder s t) (inv : EncoderInvariant s) : EncoderInvariant t := by
  obtain ⟨hst, herr, hcur, hvld, -, -⟩ := h
  obtain ⟨e1, e2, e3, e4, e5⟩ := inv
  rw [hcur, hvld] at e1 e3 e4
  rw [hst] at e2 e3 e4 e5
  rw [herr] at e2
  rw [hvld] at e5
  exact ⟨e1, e2, e3, e4, e5⟩

theorem EncoderInvariant.resetBlock (s : State) : EncoderInvariant s.resetBlock where
  e1 _ := rfl
  e2 := by simp
  e3 _ := ⟨rfl, rfl⟩
  e4 _ := ⟨rfl, rfl⟩
  e5 := by simp

/-- The byte is given up with the step that brings the cursor back to 0. -/
theorem State.emit_encCur_of_free (held : s.encVld = true) (free : s.emit.encVld = false) :
    s.emit.encCur = 0 := by
  by_cases last : s.encCur = 3
  · rw [State.emit_encCur, last]; rfl
  · rw [State.emit_encVld, if_neg last, held] at free
    cases free

theorem EncoderInvariant.of_encEvent (ev : EncEvent s i t) (inv : EncoderInvariant s) : EncoderInvariant t := by
  cases ev with
  | start => exact ⟨fun _ => rfl, by simp, by simp, by simp, by simp⟩
  | put _ hrun => exact ⟨by simp, inv.e2, by simp [hrun], by simp [hrun], fun _ => .inl hrun⟩
  | emit hrun held =>
    exact ⟨State.emit_encCur_of_free held, inv.e2, by simp [hrun], by simp [hrun], fun _ => .inl hrun⟩
  | finish hrun free =>
    have noError : s.encErr = .none := inv.e2.2 (by simp [hrun])
    exact ⟨inv.e1, by simp [noError], by simp, fun _ => ⟨inv.e1 free, free⟩, by simp [free]⟩
  | fail => exact ⟨inv.e1, by simp, by simp, by simp, by simp⟩

theorem OutputInAlphabet.of_encEvent (ev : EncEvent s i t) (inv : OutputInAlphabet s) : OutputInAlphabet t := by
  cases ev with
  | emit =>
    intro x hx
    rw [State.emit_encOut, List.mem_append, List.mem_singleton] at hx
    rcases hx with before | new
    · exact inv x before
    · exact ⟨_, new⟩
  | start | put | finish | fail => exact inv

/-! The decoder: D1 to D4 and the zeros of D5. -/

theorem DecoderInvariant.congr (h : SameDecoder s t) (inv : DecoderInvariant s) : DecoderInvariant t := by
  obtain ⟨hst, herr, hcur, hacc, -⟩ := h
  obtain ⟨d1, d2, d3, d4, d5Zeros⟩ := inv
  rw [hst] at d1 d2 d3 d5Zeros
  rw [herr] at d1 d4
  rw [hcur] at d2 d3 d4 d5Zeros
  rw [hacc] at d5Zeros
  exact ⟨d1, d2, d3, d4, d5Zeros⟩

theorem DecoderInvariant.resetBlock (s : State) : DecoderInvariant s.resetBlock where
  d1 := by simp
  d2 _ := rfl
  d3 _ := rfl
  d4 := by simp
  d5Zeros := by simp

theorem DecoderInvariant.decErr_of_run (inv : DecoderInvariant s) (hrun : s.decSt = .run) : s.decErr = .none :=
  not_not.mp (mt inv.d1.mp (by simp [hrun]))

theorem accClear_zero (acc : Byte) : accClear acc 0 := ⟨by simp, by simp, by simp⟩

/-- A code put at its place leaves zeros below it. -/
theorem extractLsb'_place (c : Code) : (place c 0).extractLsb' 0 6 = 0 ∧ (place c 1).extractLsb' 0 4 = 0 ∧
    (place c 2).extractLsb' 0 2 = 0 := by revert c; decide

/-- Fewer low bits of zeros are zeros. -/
theorem extractLsb'_eq_zero_of_le {acc : Byte} {m n : Nat} (h : acc.extractLsb' 0 m = 0) (le : n ≤ m) :
    acc.extractLsb' 0 n = 0 := by
  calc acc.extractLsb' 0 n
    _ = (acc.extractLsb' 0 m).extractLsb' 0 n := (BitVec.extractLsb'_extractLsb'_of_le (by omega)).symm
    _ = 0 := by rw [h]; simp

theorem accClear_accumulate {acc : Byte} {k : Code} (c : Code) (clear : accClear acc k) :
    accClear (accumulate acc k c) (k + 1) := by
  obtain ⟨p0, p1, p2⟩ := extractLsb'_place c
  obtain ⟨z1, z2, -⟩ := clear
  rcases code_cases k with rfl | rfl | rfl | rfl
  · exact ⟨fun _ => p0, by simp, by simp⟩
  · have low : (acc ||| place c 1).extractLsb' 0 4 = 0 := by
      rw [BitVec.extractLsb'_or, p1, extractLsb'_eq_zero_of_le (z1 rfl) (by decide)]; rfl
    exact ⟨by simp, fun _ => low, by simp⟩
  · have low : (acc ||| place c 2).extractLsb' 0 2 = 0 := by
      rw [BitVec.extractLsb'_or, p2, extractLsb'_eq_zero_of_le (z2 rfl) (by decide)]; rfl
    exact ⟨by simp, by simp, fun _ => low⟩
  · exact accClear_zero _

@[simp] theorem State.takeCode_decErr (s : State) (c : Code) : (s.takeCode c).decErr = s.decErr := by
  rw [State.takeCode]; split <;> rfl

theorem DecoderInvariant.takeCode (c : Code) (hrun : s.decSt = .run) (inv : DecoderInvariant s) :
    DecoderInvariant (s.takeCode c) := by
  have clear : accClear (s.takeCode c).decAcc (s.takeCode c).decCur := by
    rw [State.takeCode_decCur]
    by_cases last : s.decCur = 3
    · rw [last]; exact accClear_zero _
    · rw [State.takeCode_of_decCur_ne_three last]
      exact accClear_accumulate c (inv.d5Zeros (.inl hrun))
  have noError : s.decErr = .none := inv.decErr_of_run hrun
  exact ⟨by simp [noError, hrun], by simp [hrun], by simp [hrun], by simp [noError], fun _ => clear⟩

theorem DecoderInvariant.of_decEvent (ev : DecEvent s i t) (inv : DecoderInvariant s) : DecoderInvariant t := by
  cases ev with
  | start => exact ⟨by simp, by simp, by simp, by simp, fun _ => accClear_zero _⟩
  | take _ hrun => exact inv.takeCode _ hrun
  | finish hrun whole =>
    have noError := inv.decErr_of_run hrun
    exact ⟨by simp [noError], by simp, fun _ => whole, by simp [noError], by simp⟩
  | fail row hrun =>
    have clear := inv.d5Zeros (.inl hrun)
    refine ⟨?_, by simp, by simp, ?_, fun _ => clear⟩
    · cases row <;> simp
    · rintro rfl
      cases row with
      | decEnd cut => exact cut

end Kept

/-! The statements about the invariants. -/

/-- Settles O44, by `step_keeps_of_encEvent`. -/
theorem stepKeepsTheEncoderInvariant : Obligations.StepKeepsTheEncoderInvariant := fun _ _ =>
  step_keeps_of_encEvent EncoderInvariant.congr (fun _ => .resetBlock _) EncoderInvariant.of_encEvent

/-- Settles O45, by `step_keeps_of_decEvent`. -/
theorem stepKeepsTheDecoderInvariant : Obligations.StepKeepsTheDecoderInvariant := fun _ _ =>
  step_keeps_of_decEvent DecoderInvariant.congr (fun _ => .resetBlock _) DecoderInvariant.of_decEvent

/-- Settles O46: `ENC.EMIT` alone writes the stream, and what it adds is the symbol of a code. -/
theorem stepKeepsTheOutputInTheAlphabet : Obligations.StepKeepsTheOutputInTheAlphabet := by
  refine fun _ _ => step_keeps_of_encEvent (fun h inv => ?congr) id OutputInAlphabet.of_encEvent
  case congr =>
    obtain ⟨-, -, -, -, -, hout⟩ := h
    rwa [OutputInAlphabet, hout] at inv

/-- Settles O43: a state that a reset left meets the invariants of both units. -/
theorem resetMeetsTheInvariants : Obligations.ResetMeetsTheInvariants :=
  ⟨.resetBlock .reset, .resetBlock .reset, by simp [OutputInAlphabet, State.reset]⟩

end Sys2Proof.Machine
end

section
/-! SUPPORT. Frames (spec/20_memory.md R51, R61): what each event writes, with which value, and what an
operation leaves alone. -/

namespace Sys2Proof.Machine

/-! What is read off a register or stream that `ENC.EMIT` or a taken code has changed. -/

section Writes
variable {s t : State} {i : Instr}

/-- `ENC.EMIT` gives up the byte only at the last group. -/
theorem State.emit_encVld_ne (h : s.emit.encVld ≠ s.encVld) : s.encCur = 3 ∧ s.emit.encVld = false := by
  by_cases last : s.encCur = 3
  · exact ⟨last, if_pos last⟩
  · exact absurd (if_neg last) h

theorem State.takeCode_decAcc_ne {c : Code} (h : (s.takeCode c).decAcc ≠ s.decAcc) :
    s.decCur ≠ 3 ∧ (s.takeCode c).decAcc = accumulate s.decAcc s.decCur c := by
  by_cases last : s.decCur = 3
  · rw [State.takeCode_of_decCur_eq_three last] at h
    exact absurd rfl h
  · exact ⟨last, by rw [State.takeCode_of_decCur_ne_three last]⟩

theorem State.takeCode_decOut_ne {c : Code} (h : (s.takeCode c).decOut ≠ s.decOut) :
    s.decCur = 3 ∧ (s.takeCode c).decOut = s.decOut ++ [s.decAcc ||| place c 3] := by
  by_cases last : s.decCur = 3
  · exact ⟨last, by rw [State.takeCode, if_pos last]; rfl⟩
  · exact absurd (State.takeCode_decOut_of_decCur_ne_three last) h

/-! The output streams. -/

/-- An event of the encoder adds a symbol if it is `ENC.EMIT`, and else none. -/
theorem EncEvent.encOut (ev : EncEvent s i t) :
    ∃ new, t.encOut = s.encOut ++ new ∧ new.length = [i].count .encEmit := by
  cases ev with
  | emit => exact ⟨_, rfl, rfl⟩
  | start | put | finish | fail => exact ⟨[], (List.append_nil _).symm, rfl⟩

theorem after_encOut (s : State) (i : Instr) :
    ∃ new, (after s i).encOut = s.encOut ++ new ∧ new.length ≤ 1 := by
  rcases encEvent_or_sameEncoder s i with ev | ⟨-, -, -, -, -, hout⟩
  · obtain ⟨new, hout, hlen⟩ := ev.encOut
    exact ⟨new, hout, hlen ▸ List.count_le_length⟩
  · exact ⟨[], by simp [hout], by simp⟩

theorem State.takeCode_decOut (s : State) (c : Code) :
    ∃ new, (s.takeCode c).decOut = s.decOut ++ new ∧ new.length ≤ 1 := by
  by_cases same : (s.takeCode c).decOut = s.decOut
  · exact ⟨[], by simp [same], by simp⟩
  · exact ⟨_, (State.takeCode_decOut_ne same).2, le_rfl⟩

theorem after_decOut (s : State) (i : Instr) :
    ∃ new, (after s i).decOut = s.decOut ++ new ∧ new.length ≤ 1 := by
  rcases decEvent_or_sameDecoder s i with ev | ⟨-, -, -, -, hout⟩
  · generalize after s i = t at ev
    cases ev with
    | take => exact s.takeCode_decOut _
    | start | finish | fail => exact ⟨[], (List.append_nil _).symm, by simp⟩
  · exact ⟨[], by simp [hout], by simp⟩

end Writes

/-! The statements about what is written and what is not. -/

/-- Settles O30, by what each unit's operations write. -/
theorem unitsLeaveEachOtherAlone : Obligations.UnitsLeaveEachOtherAlone := by
  intro i s t h
  obtain rfl := exec_next_iff.mp h
  match hu : unitOf i with
  | some .enc =>
    obtain ⟨_, _, _, _, _, _, heq⟩ := after_writes_encoder s hu
    rw [heq]
    exact ⟨⟨rfl, rfl, rfl, rfl⟩, fun _ => ⟨.refl s, rfl, rfl, rfl⟩, nofun, nofun⟩
  | some .dec =>
    obtain ⟨_, _, _, _, _, heq⟩ := after_writes_decoder s hu
    rw [heq]
    exact ⟨⟨rfl, rfl, rfl, rfl⟩, nofun, fun _ => ⟨.refl s, rfl, rfl, rfl⟩, nofun⟩
  | none =>
    obtain ⟨_, _, _, heq⟩ := after_writes_answers s hu
    rw [heq]
    exact ⟨⟨rfl, rfl, rfl, rfl⟩, nofun, nofun, fun _ => ⟨.refl s, .refl s⟩⟩

/-- Settles O32: each clause is read off the events. -/
theorem encoderRegistersAreWrittenOnlyByTheirEvents :
    Obligations.EncoderRegistersAreWrittenOnlyByTheirEvents := by
  intro i s t h
  obtain rfl := exec_next_iff.mp h
  rcases encEvent_or_sameEncoder s i with ev | ⟨hst, herr, hcur, hvld, hbyte, hout⟩
  case inr =>
    exact ⟨absurd hst, absurd herr, absurd hcur, absurd hvld, absurd hbyte, absurd hout⟩
  case inl =>
    generalize after s i = t at ev
    cases ev with
    | start => exact ⟨fun _ => .inl ⟨rfl, rfl⟩, fun _ => .inl ⟨rfl, rfl⟩, fun _ => .inl ⟨rfl, rfl⟩,
        fun _ => .inl ⟨rfl, rfl⟩, absurd rfl, absurd rfl⟩
    | put b => exact ⟨absurd rfl, absurd rfl, absurd rfl, fun _ => .inr (.inl ⟨⟨b, rfl⟩, rfl⟩),
        fun _ => rfl, absurd rfl⟩
    | emit => exact ⟨absurd rfl, absurd rfl, fun _ => .inr ⟨rfl, rfl⟩,
        fun h => .inr (.inr ⟨rfl, State.emit_encVld_ne h⟩), absurd rfl, fun _ => ⟨rfl, rfl⟩⟩
    | finish => exact ⟨fun _ => .inr (.inl ⟨rfl, rfl⟩), absurd rfl, absurd rfl, absurd rfl,
        absurd rfl, absurd rfl⟩
    | fail => exact ⟨fun _ => .inr (.inr ⟨rfl, rfl⟩), fun _ => .inr ⟨rfl, rfl⟩, absurd rfl, absurd rfl,
        absurd rfl, absurd rfl⟩

/-- Settles O33: each clause is read off the events, and for a failing one off its row of `Raises`. -/
theorem decoderRegistersAreWrittenOnlyByTheirEvents :
    Obligations.DecoderRegistersAreWrittenOnlyByTheirEvents := by
  intro i s t h
  obtain rfl := exec_next_iff.mp h
  rcases decEvent_or_sameDecoder s i with ev | ⟨hst, herr, hcur, hacc, hout⟩
  case inr => exact ⟨absurd hst, absurd herr, absurd hcur, absurd hacc, absurd hout⟩
  case inl =>
    generalize after s i = t at ev
    cases ev with
    | start => exact ⟨fun _ => .inl ⟨rfl, rfl⟩, fun _ => .inl ⟨rfl, rfl⟩, fun _ => .inl ⟨rfl, rfl⟩,
        absurd rfl, absurd rfl⟩
    | @take x c hx => exact ⟨absurd (State.takeCode_decSt s c), absurd (State.takeCode_decErr s c),
        fun _ => .inr ⟨⟨x, c, rfl, hx⟩, State.takeCode_decCur s c⟩,
        fun h => (State.takeCode_decAcc_ne h).imp_right fun hacc => ⟨x, c, rfl, hx, hacc⟩,
        fun h => (State.takeCode_decOut_ne h).imp_right fun hout => ⟨x, c, rfl, hx, hout⟩⟩
    | finish => exact ⟨fun _ => .inr (.inl ⟨rfl, rfl⟩), absurd rfl, absurd rfl, absurd rfl, absurd rfl⟩
    | fail row =>
      refine ⟨fun _ => .inr (.inr ⟨rfl, ?cause⟩), fun _ => .inr ⟨rfl, ?code⟩,
        absurd rfl, absurd rfl, absurd rfl⟩
      case cause =>
        cases row with
        | decEnd => exact .inl rfl
        | decBad => exact .inr (.inl rfl)
        | decIofail => exact .inr (.inr (.inl rfl))
        | decSym outside => exact .inr (.inr (.inr ⟨_, rfl, outside⟩))
      case code =>
        cases row with
        | decIofail => exact .inl ⟨rfl, rfl⟩
        | decSym outside => exact .inr (.inl ⟨⟨_, rfl, outside⟩, rfl⟩)
        | decBad => exact .inr (.inr (.inl ⟨rfl, rfl⟩))
        | decEnd cut => exact .inr (.inr (.inr ⟨rfl, cut, rfl⟩))

/-- Settles O42: in a step, one event at the most adds to a stream. -/
theorem outputStreamsOnlyGrow : Obligations.OutputStreamsOnlyGrow := by
  intro s t h
  rcases step_cases h with ⟨rest, rfl⟩ | ⟨p, q, r, rest, rfl⟩ | ⟨i, rest, p, q, rfl⟩
  · exact ⟨⟨[], by simp⟩, ⟨[], by simp⟩⟩
  · exact ⟨⟨[], by simp⟩, ⟨[], by simp⟩⟩
  · exact ⟨after_encOut { s with host := rest } i, after_decOut { s with host := rest } i⟩

end Sys2Proof.Machine
end

section
/-! SUPPORT. What an operation does not read (spec/10_state.md R25, R30; spec/20_memory.md R61): another value
there passes through it, or is overwritten. -/

namespace Sys2Proof.Machine

/-! States that agree on a unit: its operations write the same to both. -/

section Agree
variable {i : Instr} {s t : State}

theorem after_writes_same_encoder (hi : unitOf i = some .enc) (h : SameEncoder s t) :
    ∃ st err cur vld byte out,
      after s i = { s with
        encSt := st, encErr := err, encCur := cur, encVld := vld, encByte := byte, encOut := out } ∧
      after t i = { t with
        encSt := st, encErr := err, encCur := cur, encVld := vld, encByte := byte, encOut := out } := by
  have same := sameEncoder_after_after hi h
  obtain ⟨_, _, _, _, _, _, hs⟩ := after_writes_encoder s hi
  obtain ⟨_, _, _, _, _, _, ht⟩ := after_writes_encoder t hi
  simp only [SameEncoder, hs, ht] at same
  obtain ⟨rfl, rfl, rfl, rfl, rfl, rfl⟩ := same
  exact ⟨_, _, _, _, _, _, hs, ht⟩

theorem after_writes_same_decoder (hi : unitOf i = some .dec) (h : SameDecoderAndSink s t) :
    ∃ st err cur acc out,
      after s i = { s with decSt := st, decErr := err, decCur := cur, decAcc := acc, decOut := out } ∧
      after t i = { t with decSt := st, decErr := err, decCur := cur, decAcc := acc, decOut := out } := by
  have same := sameDecoderAndSink_after_after hi h
  obtain ⟨_, _, _, _, _, hs⟩ := after_writes_decoder s hi
  obtain ⟨_, _, _, _, _, ht⟩ := after_writes_decoder t hi
  simp only [SameDecoderAndSink, SameDecoder, hs, ht] at same
  obtain ⟨⟨rfl, rfl, rfl, rfl, rfl⟩, -⟩ := same
  exact ⟨_, _, _, _, _, hs, ht⟩

end Agree

theorem lookUp_of_unitOf {i : Instr} (hi : unitOf i = none) : (∃ c, i = .lutC2s c) ∨ ∃ x, i = .lutS2c x := by
  cases i with
  | lutC2s c => exact .inl ⟨c, rfl⟩
  | lutS2c x => exact .inr ⟨x, rfl⟩
  | encPut | encEnd | encIofail | encStart | encEmit => cases hi
  | decSym | decEnd | decIofail | decBad | decStart => cases hi

/-! The host's list. -/

section HostList
variable (i : Instr) (s : State) (l : List HostAct)

theorem enabled_withHost : enabled i { s with host := l } = enabled i s := by cases i <;> rfl

theorem after_withHost : after { s with host := l } i = { after s i with host := l } := by
  match hu : unitOf i with
  | some .enc =>
    obtain ⟨_, _, _, _, _, _, heq, heq'⟩ :=
      after_writes_same_encoder (s := s) (t := { s with host := l }) hu (.refl s)
    rw [heq, heq']
  | some .dec =>
    obtain ⟨_, _, _, _, _, heq, heq'⟩ :=
      after_writes_same_decoder (s := s) (t := { s with host := l }) hu ⟨.refl s, rfl⟩
    rw [heq, heq']
  | none =>
    rcases lookUp_of_unitOf hu with ⟨c, rfl⟩ | ⟨x, rfl⟩ <;> rfl

end HostList

/-! The data registers while they hold nothing. -/

section Stale
variable (i : Instr) {s : State}

theorem after_withEncByte (free : s.encVld = false) (b : Byte) :
    (after { s with encByte := b } i = { after s i with encByte := b } ∧ (after s i).encVld = false) ∨
    after { s with encByte := b } i = after s i := by
  match hu : unitOf i with
  | some .enc =>
    have same : enabled i { s with encByte := b } = enabled i s := by cases i <;> rfl
    rw [after_eq, after_eq, same]
    split
    case isFalse => exact .inl ⟨rfl, free⟩
    case isTrue on =>
      cases i with
      | encPut => exact .inr rfl
      | encEmit => simp [free] at on
      | encStart => exact .inl ⟨rfl, rfl⟩
      | encEnd | encIofail => exact .inl ⟨rfl, free⟩
      | decSym | decEnd | decIofail | decBad | decStart | lutC2s | lutS2c => cases hu
  | some .dec =>
    obtain ⟨_, _, _, _, _, heq, heq'⟩ :=
      after_writes_same_decoder (s := s) (t := { s with encByte := b }) hu ⟨.refl s, rfl⟩
    rw [heq, heq']
    exact .inl ⟨rfl, free⟩
  | none =>
    rcases lookUp_of_unitOf hu with ⟨c, rfl⟩ | ⟨x, rfl⟩ <;> exact .inl ⟨rfl, free⟩

theorem State.takeCode_withDecAcc (start : s.decCur = 0) (a : Byte) (c : Code) :
    { s with decAcc := a }.takeCode c = s.takeCode c := by
  simp [State.takeCode, accumulate, start]

theorem after_withDecAcc (start : s.decCur = 0) (a : Byte) :
    (after { s with decAcc := a } i = { after s i with decAcc := a } ∧ (after s i).decCur = 0) ∨
    after { s with decAcc := a } i = after s i := by
  match hu : unitOf i with
  | some .dec =>
    have same : enabled i { s with decAcc := a } = enabled i s := by cases i <;> rfl
    rw [after_eq, after_eq, same]
    split
    case isFalse => exact .inl ⟨rfl, start⟩
    case isTrue on =>
      cases i with
      | decSym x =>
        simp only [effect, State.takeSymbol]
        cases symbolToCode Config.sym x with
        | none => exact .inl ⟨rfl, start⟩
        | some c => exact .inr (State.takeCode_withDecAcc start a c)
      | decEnd =>
        simp only [effect, if_pos start]
        exact .inl ⟨rfl, start⟩
      | decStart => exact .inl ⟨rfl, rfl⟩
      | decIofail | decBad => exact .inl ⟨rfl, start⟩
      | encPut | encEnd | encIofail | encStart | encEmit | lutC2s | lutS2c => cases hu
  | some .enc =>
    obtain ⟨_, _, _, _, _, _, heq, heq'⟩ :=
      after_writes_same_encoder (s := s) (t := { s with decAcc := a }) hu (.refl s)
    rw [heq, heq']
    exact .inl ⟨rfl, start⟩
  | none =>
    rcases lookUp_of_unitOf hu with ⟨c, rfl⟩ | ⟨x, rfl⟩ <;> exact .inl ⟨rfl, start⟩

end Stale

/-! The statements about the data registers. -/

/-- Settles O34, by `after_withEncByte`. -/
theorem staleEncByteIsNeverSeen : Obligations.StaleEncByteIsNeverSeen := by
  intro i s b t t' free h h'
  obtain rfl := exec_next_iff.mp h
  obtain rfl := exec_next_iff.mp h'
  rcases after_withEncByte i free b with ⟨heq, hvld⟩ | heq
  · exact ⟨by rw [heq], fun held => absurd held (by simp [hvld])⟩
  · exact ⟨by rw [heq], fun _ => heq⟩

/-- Settles O35, by `after_withDecAcc`. -/
theorem staleDecAccIsNeverSeen : Obligations.StaleDecAccIsNeverSeen := by
  intro i s a t t' start h h'
  obtain rfl := exec_next_iff.mp h
  obtain rfl := exec_next_iff.mp h'
  rcases after_withDecAcc i start a with ⟨heq, hcur⟩ | heq
  · exact ⟨by rw [heq], fun moved => absurd hcur moved⟩
  · exact ⟨by rw [heq], fun _ => heq⟩

end Sys2Proof.Machine
end

section
/-! SUPPORT. One step, by the host's next act (spec/00_scope.md R8, R9, R64; spec/30_encoding.md R80, R83). -/

namespace Sys2Proof.Machine

section Turn
variable {a : HostAct} {rest : List HostAct} {s t : State} {w : PortWord} {i : Instr}

theorem nextTurn_of_host (h : s.host = a :: rest) : nextTurn s = turnOf a { s with host := rest } := by
  rw [nextTurn, h]

theorem turnOf_serveEnc_of_none (h : s.encPort = none) : turnOf .serveEnc s = .quiet s := by
  rw [turnOf, h]

theorem turnOf_serveEnc {w : EncWord} (h : s.encPort = some w) : turnOf .serveEnc s = eventOf (.encEw w) s := by
  rw [turnOf, h]

theorem turnOf_serveDec_of_none (h : s.decPort = none) : turnOf .serveDec s = .quiet s := by
  rw [turnOf, h]

theorem turnOf_serveDec {w : DecWord} (h : s.decPort = some w) : turnOf .serveDec s = eventOf (.decEw w) s := by
  rw [turnOf, h]

theorem eventOf_of_ok (h : decode w = .ok i) : eventOf w s = .event i s := by rw [eventOf, h]

theorem eventOf_of_error {e : DecodeError} (h : decode w = .error e) :
    eventOf w s = .refuse (refusalOf e) := by rw [eventOf, h]

theorem step_of_quiet (h : nextTurn s = .quiet t) : step s = .next t := by rw [step, h]

theorem step_of_refuse {r : Refusal} (h : nextTurn s = .refuse r) : step s = .refused r := by rw [step, h]

/-- An event always has a next state, so a step that brings one has too. -/
theorem step_of_event (h : nextTurn s = .event i t) : step s = .next (release i t (after t i)) := by
  rw [step, h]
  exact congrArg (conclude i t) (exec_eq_after i t)

/-! An input port is served the word that is offered on it. -/

theorem nextTurn_of_encWord {w : EncWord} (hhost : s.host = .serveEnc :: rest) (hport : s.encPort = some w) :
    nextTurn s = eventOf (.encEw w) { s with host := rest } :=
  (nextTurn_of_host hhost).trans (turnOf_serveEnc hport)

theorem nextTurn_of_decWord {w : DecWord} (hhost : s.host = .serveDec :: rest) (hport : s.decPort = some w) :
    nextTurn s = eventOf (.decEw w) { s with host := rest } :=
  (nextTurn_of_host hhost).trans (turnOf_serveDec hport)

end Turn

/-! The end of an event. -/

section Release
variable {i : Instr} {s t : State}

theorem release_of_not_enabled (h : enabled i s = false) : release i s t = t := by
  rw [release, h]; rfl

theorem release_of_encIn (h : portOf i = .encIn) :
    release i s t = if enabled i s then { t with encPort := none } else t := by rw [release, h]

theorem release_of_decIn (h : portOf i = .decIn) :
    release i s t = if enabled i s then { t with decPort := none } else t := by rw [release, h]

theorem release_of_no_input_port (henc : portOf i ≠ .encIn) (hdec : portOf i ≠ .decIn) : release i s t = t := by
  rw [release]
  split
  case isFalse => rfl
  case isTrue =>
    split
    case h_1 h => exact absurd h henc
    case h_2 h => exact absurd h hdec
    all_goals rfl

end Release

/-- An operation that is not enabled uses up the host's act alone. -/
theorem step_of_event_of_not_enabled {s : State} {rest : List HostAct} {i : Instr}
    (h : nextTurn s = .event i { s with host := rest }) (off : enabled i s = false) :
    step s = .next { s with host := rest } := by
  rw [← enabled_withHost i s rest] at off
  rw [step_of_event h, release_of_not_enabled off, after_of_not_enabled off]

/-! The statements about one step. -/

/-- Settles O4. -/
theorem reservedKindsAreRefused : Obligations.ReservedKindsAreRefused :=
  ⟨fun _ _ _ hhost hport reserved => step_of_refuse <|
      (nextTurn_of_encWord hhost hport).trans (eventOf_of_error (decode_encEw_reserved reserved)),
    fun _ _ _ hhost hport reserved => step_of_refuse <|
      (nextTurn_of_decWord hhost hport).trans (eventOf_of_error (decode_decEw_reserved reserved))⟩

/-- Settles O36: a word that selects `i` stands on the port of `i`, which `release` clears. -/
theorem stepRunsTheOfferedWord : Obligations.StepRunsTheOfferedWord := by
  constructor
  · intro s w i rest hhost hport hw
    rw [step_of_event ((nextTurn_of_encWord hhost hport).trans (eventOf_of_ok hw)), exec_eq_after,
      release_of_encIn (portOf_eq_portOfWord_of_decode hw)]
  · intro s w i rest hhost hport hw
    rw [step_of_event ((nextTurn_of_decWord hhost hport).trans (eventOf_of_ok hw)), exec_eq_after,
      release_of_decIn (portOf_eq_portOfWord_of_decode hw)]

/-- Settles O37. -/
theorem stepRunsTransfersAndLookUps : Obligations.StepRunsTransfersAndLookUps := by
  have runs {s : State} {i : Instr} {a : HostAct} {rest : List HostAct} (hhost : s.host = a :: rest)
      (turn : turnOf a { s with host := rest } = .event i { s with host := rest })
      (henc : portOf i ≠ .encIn) (hdec : portOf i ≠ .decIn) : step s = exec i { s with host := rest } := by
    rw [step_of_event ((nextTurn_of_host hhost).trans turn), exec_eq_after, release_of_no_input_port henc hdec]
  exact ⟨fun _ _ h => runs h rfl nofun nofun, fun _ _ _ h => runs h rfl nofun nofun,
    fun _ _ _ h => runs h rfl nofun nofun⟩

/-- Settles O38. -/
theorem notAcceptedWordStaysOffered : Obligations.NotAcceptedWordStaysOffered :=
  ⟨fun i s off => by rw [exec_eq_after, after_of_not_enabled off],
    fun _ _ _ _ hhost hport hw =>
      step_of_event_of_not_enabled ((nextTurn_of_encWord hhost hport).trans (eventOf_of_ok hw)),
    fun _ _ _ _ hhost hport hw =>
      step_of_event_of_not_enabled ((nextTurn_of_decWord hhost hport).trans (eventOf_of_ok hw))⟩

/-- Settles O40: in each case the turn is quiet. -/
theorem actsWithoutEventChangeOnlyTheEnvironment : Obligations.ActsWithoutEventChangeOnlyTheEnvironment :=
  ⟨fun s h => step_of_quiet (by rw [nextTurn, h]), fun _ _ h => step_of_quiet (nextTurn_of_host h),
    fun _ _ _ h => step_of_quiet (nextTurn_of_host h), fun _ _ _ h => step_of_quiet (nextTurn_of_host h),
    fun _ _ _ h => step_of_quiet (nextTurn_of_host h),
    fun _ _ h hport => step_of_quiet ((nextTurn_of_host h).trans (turnOf_serveEnc_of_none hport)),
    fun _ _ h hport => step_of_quiet ((nextTurn_of_host h).trans (turnOf_serveDec_of_none hport))⟩

/-- Settles O23: the witnesses are the model's reset values of the data registers. -/
theorem resetActPutsBothUnitsToIdle : Obligations.ResetActPutsBothUnitsToIdle := by
  intro s rest h
  refine ⟨Config.dataReset, Config.dataReset, State.resetBlock { s with host := rest },
    step_of_quiet (nextTurn_of_host h), rfl, ?_, ?_, rfl, rfl, rfl, rfl⟩
  · exact State.encStatus_eq_zero rfl rfl rfl rfl
  · exact State.decStatus_eq_zero rfl rfl rfl

/-! Pauses. -/

theorem release_withHost (i : Instr) (u t : State) (l : List HostAct) :
    release i { u with host := l } { t with host := l } = { release i u t with host := l } := by
  simp only [release, enabled_withHost]
  split
  · cases portOf i <;> rfl
  · rfl

/-- What an act brings does not depend on the acts that follow it. -/
theorem turnOf_withHost (a : HostAct) (s : State) :
    (∃ t : State, ∀ l, turnOf a { s with host := l } = .quiet { t with host := l }) ∨
    (∃ i, ∀ l, turnOf a { s with host := l } = .event i { s with host := l }) ∨
    (∃ r, ∀ l, turnOf a { s with host := l } = .refuse r) := by
  have word (w : PortWord) : (∃ i, ∀ l, eventOf w { s with host := l } = .event i { s with host := l }) ∨
      (∃ r, ∀ l, eventOf w { s with host := l } = .refuse r) := by
    cases hw : decode w with
    | ok i => exact .inl ⟨i, fun _ => eventOf_of_ok hw⟩
    | error e => exact .inr ⟨_, fun _ => eventOf_of_error hw⟩
  cases a with
  | serveEnc =>
    rcases Option.eq_none_or_eq_some s.encPort with hport | ⟨w, hport⟩
    · exact .inl ⟨s, fun l => turnOf_serveEnc_of_none hport⟩
    · have served (l) : turnOf .serveEnc { s with host := l } = eventOf (.encEw w) { s with host := l } :=
        turnOf_serveEnc hport
      simp only [served]
      exact .inr (word _)
  | serveDec =>
    rcases Option.eq_none_or_eq_some s.decPort with hport | ⟨w, hport⟩
    · exact .inl ⟨s, fun l => turnOf_serveDec_of_none hport⟩
    · have served (l) : turnOf .serveDec { s with host := l } = eventOf (.decEw w) { s with host := l } :=
        turnOf_serveDec hport
      simp only [served]
      exact .inr (word _)
  | takeSymbol => exact .inr (word .symbolTaken)
  | lookC2s c => exact .inr (word (.c2sIn c))
  | lookS2c x => exact .inr (word (.s2cIn x))
  | offerEnc w => exact .inl ⟨{ s with encPort := w }, fun _ => rfl⟩
  | offerDec w => exact .inl ⟨{ s with decPort := w }, fun _ => rfl⟩
  | byteSink ready => exact .inl ⟨{ s with byteSinkReady := ready }, fun _ => rfl⟩
  | reset => exact .inl ⟨s.resetBlock, fun _ => rfl⟩
  | pause => exact .inl ⟨s, fun _ => rfl⟩

/-- The step that takes an act does not depend on the acts that follow it, which stay in the list. -/
theorem step_withHost_cons (a : HostAct) (s : State) :
    (∃ t : State, ∀ l, step { s with host := a :: l } = .next { t with host := l }) ∨
    (∃ r, ∀ l, step { s with host := a :: l } = .refused r) := by
  have next (l) : nextTurn { s with host := a :: l } = turnOf a { s with host := l } := rfl
  rcases turnOf_withHost a s with ⟨t, h⟩ | ⟨i, h⟩ | ⟨r, h⟩
  · exact .inl ⟨t, fun l => step_of_quiet ((next l).trans (h l))⟩
  · refine .inl ⟨release i s (after s i), fun l => ?_⟩
    rw [step_of_event ((next l).trans (h l)), after_withHost, release_withHost]
  · exact .inr ⟨r, fun l => step_of_refuse ((next l).trans (h l))⟩

theorem runHost_withHost_cons (a : HostAct) (s : State) :
    (∃ t : State, ∀ l, runHost { s with host := a :: l } = runHost { t with host := l }) ∨
    (∃ r, ∀ l, runHost { s with host := a :: l } = .refused r) := by
  refine (step_withHost_cons a s).imp (Exists.imp fun t h l => ?_) (Exists.imp fun r h l => ?_)
  · simp only [runHost, List.length_cons, runSteps, h l]
  · simp only [runHost, List.length_cons, runSteps, h l]

/-- Settles O41, by induction on the acts before the pause. -/
theorem pausesAreInvisible : Obligations.PausesAreInvisible := by
  intro s before rest
  induction before generalizing s with
  | nil =>
    have pause : step { s with host := .pause :: rest } = .next { s with host := rest } :=
      step_of_quiet rfl
    simp only [List.nil_append, runHost, List.length_cons, runSteps, pause]
  | cons a before ih =>
    simp only [List.cons_append]
    rcases runHost_withHost_cons a s with ⟨t, h⟩ | ⟨r, h⟩
    · rw [h, h, ih t]
    · rw [h, h]

end Sys2Proof.Machine
end

section
/-! SUPPORT. Passes on the machine, continued (spec/43_pass_semantics.md R136, R152, R153): what a pass cut
short has emitted, a decode pass over any values, and the four symbols of a run. -/

namespace Sys2Proof.Machine

/-! An encode pass is accepted event by event. -/

section EncodePass
variable {s : State}

theorem allAccepted_append {a b : List Instr} :
    allAccepted s (a ++ b) = true ↔ allAccepted s a = true ∧ allAccepted (play s a) b = true := by
  induction a generalizing s with
  | nil => simp [allAccepted]
  | cons i a ih => rw [List.cons_append, allAccepted_cons, allAccepted_cons, ih, play_cons, and_assoc]

theorem allAccepted_flatMap_encByteEvents (hrun : s.encSt = .run) (free : s.encVld = false) (hcur : s.encCur = 0)
    (bytes : List Byte) : allAccepted s (bytes.flatMap encByteEvents) = true := by
  induction bytes generalizing s with
  | nil => rfl
  | cons b bytes ih =>
    refine allAccepted_append.mpr ⟨allAccepted_encByteEvents hrun free hcur, ?_⟩
    rw [play_encByteEvents hrun free hcur]
    exact ih hrun rfl rfl

theorem allAccepted_encPassEvents (idle : s.encSt ≠ .run) (bytes : List Byte) :
    allAccepted s (encPassEvents bytes) = true := by
  have startOn : enabled .encStart s = true := enabled_encStart_iff.mpr idle
  rw [encPassEvents, List.append_assoc, List.singleton_append, allAccepted_cons, after_of_enabled startOn,
    allAccepted_append]
  refine ⟨startOn, allAccepted_flatMap_encByteEvents (s := s.openPass .enc) rfl rfl rfl bytes, ?_⟩
  rw [effect, play_flatMap_encByteEvents (s := s.openPass .enc) rfl rfl rfl]
  exact allAccepted_cons.mpr ⟨enabled_encEnd_iff.mpr ⟨rfl, rfl⟩, rfl⟩

/-! An accepted trace emits one symbol for each of its `ENC.EMIT` events, and no event takes one back. -/

theorem after_encOut_of_enabled {i : Instr} (on : enabled i s = true) :
    ∃ new, (after s i).encOut = s.encOut ++ new ∧ new.length = [i].count .encEmit := by
  by_cases hi : unitOf i = some .enc
  · exact (encEvent_of_enabled s i hi on).encOut
  · obtain ⟨-, -, -, -, -, hout⟩ := (sameEncoder_after_iff (s := s) hi).mpr (.refl s)
    have noEmit : i ≠ .encEmit := fun h => hi (h ▸ rfl)
    exact ⟨[], by simp [hout], by simp [noEmit]⟩

theorem play_encOut_of_allAccepted {events : List Instr} (accepted : allAccepted s events = true) :
    ∃ new, (play s events).encOut = s.encOut ++ new ∧ new.length = events.count .encEmit := by
  induction events generalizing s with
  | nil => exact ⟨[], by simp, rfl⟩
  | cons i rest ih =>
    obtain ⟨on, accepted⟩ := allAccepted_cons.mp accepted
    obtain ⟨first, hfirst, hlen⟩ := after_encOut_of_enabled on
    obtain ⟨more, hmore, hlen'⟩ := ih accepted
    refine ⟨first ++ more, ?_, ?_⟩
    · rw [play_cons, hmore, hfirst, List.append_assoc]
    · rw [List.length_append, hlen, hlen', ← List.count_append, List.singleton_append]

end EncodePass

/-! `dec` of a stream with a value outside the alphabet, and of one that stops inside a run. -/

section Decode
variable {w : Nat} {t : SymTable w} {syms : List (BitVec w)}

theorem decodeStream_of_outside_run {x : BitVec w} (hx : x ∈ syms.take 4) (outside : symbolToCode t x = none) :
    decodeStream t syms = ([], .err .invalidSymbol) := by
  induction syms using run_induction with
  | short syms short =>
    have hmem : x ∈ syms := List.mem_of_mem_take hx
    have notAll : ¬ syms.all (inAlphabet t) = true := fun hall => by
      simpa [inAlphabet, outside] using List.all_eq_true.mp hall x hmem
    rw [decodeStream_of_partial_run (List.ne_nil_of_mem hmem) short, if_neg notAll]
  | run x0 x1 x2 x3 rest =>
    simp only [decodeStream]
    split
    case h_1 h0 h1 h2 h3 =>
      have : x = x0 ∨ x = x1 ∨ x = x2 ∨ x = x3 := by simpa using hx
      rcases this with rfl | rfl | rfl | rfl <;> simp_all
    case h_2 => rfl

/-- A value outside the alphabet ends the pass in its run; the runs before it give their bytes. -/
theorem decodeStream_of_outside {x : BitVec w} {rest : List (BitVec w)} (outside : inAlphabet t x = false) :
    decodeStream t (syms ++ x :: rest) = ((decodeStream t syms).1, .err .invalidSymbol) := by
  induction syms using run_induction with
  | short syms short =>
    have hx : x ∈ (syms ++ x :: rest).take 4 :=
      List.mem_take_iff_getElem.mpr ⟨syms.length, by simp; omega, by simp⟩
    rw [decodeStream_fst_of_short short, decodeStream_of_outside_run hx (inAlphabet_eq_false_iff.mp outside)]
  | run x0 x1 x2 x3 syms ih =>
    simp only [List.cons_append]
    rcases decodeStream_run_cases (t := t) x0 x1 x2 x3 with ⟨b, hrun⟩ | hrun
    · rw [hrun, hrun, ih]
    · rw [hrun, hrun]

theorem decodeStream_snd_of_partial_run (hall : syms.all (inAlphabet t) = true) (cut : syms.length % 4 ≠ 0) :
    (decodeStream t syms).2 = .err .truncatedStream := by
  induction syms using run_induction with
  | short syms short =>
    have some_left : syms ≠ [] := by rintro rfl; exact cut rfl
    rw [decodeStream_of_partial_run some_left short, if_pos hall]
  | run x0 x1 x2 x3 rest ih =>
    obtain ⟨b, hrun⟩ := decodeStream_run_of_inAlphabet hall
    rw [hrun]
    rw [List.length_cons, List.length_cons, List.length_cons, List.length_cons] at cut
    exact ih (by simp_all) (by omega)

/-- Of the five error kinds `dec` reports two. -/
theorem decodeStream_snd_cases (syms : List (BitVec w)) : (decodeStream t syms).2 = .ok ∨
    (decodeStream t syms).2 = .err .invalidSymbol ∨ (decodeStream t syms).2 = .err .truncatedStream := by
  induction syms using run_induction with
  | short syms short =>
    by_cases empty : syms = []
    · subst empty; exact .inl rfl
    · rw [decodeStream_of_partial_run empty short]
      split
      · exact .inr (.inr rfl)
      · exact .inr (.inl rfl)
  | run x0 x1 x2 x3 rest ih =>
    rcases decodeStream_run_cases (t := t) x0 x1 x2 x3 with ⟨b, h⟩ | h
    · rw [h]; exact ih
    · rw [h]; exact .inr (.inl rfl)

theorem encodeByte_pack (c0 c1 c2 c3 : Code) : encodeByte t (pack c0 c1 c2 c3) =
    [codeToSymbol t c0, codeToSymbol t c1, codeToSymbol t c2, codeToSymbol t c3] := by
  rw [encodeByte, group_pack_zero, group_pack_one, group_pack_two, group_pack_three]

/-- A stream decoded with success is the encoding of its bytes. -/
theorem encodeStream_of_decodeStream {out : List Byte} (h : decodeStream t syms = (out, .ok)) :
    encodeStream t out = syms := by
  induction syms using run_induction generalizing out with
  | short syms short =>
    by_cases empty : syms = []
    · subst empty; cases h; rfl
    · rw [decodeStream_of_partial_run empty short] at h
      split at h <;> cases h
  | run x0 x1 x2 x3 rest ih =>
    simp only [decodeStream] at h
    split at h
    case h_1 h0 h1 h2 h3 =>
      obtain ⟨rfl, ok⟩ := Prod.mk.inj h
      rw [encodeStream, encodeByte_pack, ih (Prod.ext rfl ok), codeToSymbol_of_symbolToCode h0,
        codeToSymbol_of_symbolToCode h1, codeToSymbol_of_symbolToCode h2, codeToSymbol_of_symbolToCode h3]
      rfl
    case h_2 => cases h

theorem encodeStream_injective (ht : t.WellFormed) : Function.Injective (encodeStream t) :=
  Function.LeftInverse.injective (g := fun syms => (decodeStream t syms).1) fun bytes =>
    congrArg Prod.fst (decodeStream_encodeStream ht bytes)

theorem wellFormedStream_iff :
    wellFormedStream t syms = true ↔ syms.all (inAlphabet t) = true ∧ syms.length % 4 = 0 := by
  simp [wellFormedStream]

theorem wellFormedStream_encodeStream (ht : t.WellFormed) (bytes : List Byte) :
    wellFormedStream t (encodeStream t bytes) = true :=
  wellFormedStream_iff.mpr ⟨all_inAlphabet_encodeStream ht bytes, by rw [length_encodeStream]; omega⟩

end Decode

/-! A decode pass over any values (R153). -/

section DecodePass
variable {s : State}

theorem exists_first_outside {w : Nat} {t : SymTable w} {syms : List (BitVec w)}
    (h : ¬ syms.all (inAlphabet t) = true) : ∃ good x rest, syms = good ++ x :: rest ∧
      good.all (inAlphabet t) = true ∧ inAlphabet t x = false := by
  induction syms with
  | nil => exact absurd rfl h
  | cons y syms ih =>
    cases hy : inAlphabet t y with
    | false => exact ⟨[], y, syms, rfl, rfl, hy⟩
    | true =>
      obtain ⟨good, x, rest, rfl, hgood, hx⟩ := ih (by simpa [hy] using h)
      exact ⟨y :: good, x, rest, rfl, by simp [hy, hgood], hx⟩

/-! The four symbols of a run (R136). -/

/-- A value outside the alphabet fails the pass, and what follows it changes nothing more. -/
theorem sameDecoder_play_decSyms_of_outside {x : CP} (hrun : s.decSt = .run)
    (outside : inAlphabet Config.sym x = false) (rest : List CP) :
    SameDecoder (play s ((x :: rest).map .decSym)) (s.raise .dec .invalidSymbol) := by
  have failed := (exec_next_iff.mp (exec_decSym_of_miss (inAlphabet_eq_false_iff.mp outside) hrun)).symm
  rw [List.map_cons, play_cons, failed]
  exact sameDecoder_play_of_ended (s := s.raise .dec .invalidSymbol) (by simp) (by simp)

/-- The codes of a run's symbols, from bit 7 down and zeros below them. -/
theorem place_eq_append (c0 : Code) : place c0 0 = c0 ++ 0#6 := by revert c0; decide

theorem places_eq_append (c0 c1 : Code) : place c0 0 ||| place c1 1 = c0 ++ c1 ++ 0#4 := by
  revert c0 c1; decide

theorem places_eq_append_append (c0 c1 c2 : Code) :
    place c0 0 ||| place c1 1 ||| place c2 2 = c0 ++ c1 ++ c2 ++ 0#2 := by
  have none_left : place 0#2 3 = 0#8 := by decide
  rw [← pack_eq_append, pack, none_left, BitVec.or_zero]

/-! Codes that do not complete the run; `foldl_takeCode_run` is the fourth. -/

theorem foldl_takeCode_one (start : s.decCur = 0) (c0 : Code) :
    [c0].foldl State.takeCode s = { s with decAcc := place c0 0, decCur := 1 } := by
  simp [State.takeCode, accumulate, start]

theorem foldl_takeCode_two (start : s.decCur = 0) (c0 c1 : Code) :
    [c0, c1].foldl State.takeCode s = { s with decAcc := place c0 0 ||| place c1 1, decCur := 2 } := by
  simp [State.takeCode, accumulate, start]

theorem foldl_takeCode_three (start : s.decCur = 0) (c0 c1 c2 : Code) : [c0, c1, c2].foldl State.takeCode s =
    { s with decAcc := place c0 0 ||| place c1 1 ||| place c2 2, decCur := 3 } := by
  simp [State.takeCode, accumulate, start]

end DecodePass

/-! The statements about passes and about the codec. -/

/-- Settles O48: symbols of the alphabet fold their codes into the state, and a value outside it fails the
pass in the state they have led to. -/
theorem decRunEmitsOneByte : Obligations.DecRunEmitsOneByte := by
  refine ⟨fun s c0 c1 c2 hrun start ready => ⟨?first, ?second, ?third⟩,
    fun s c0 c1 c2 c3 hrun start ready => ?fourth,
    fun s good rest x hrun start ready hall outside hlen => ?cut⟩
  case first =>
    rw [← place_eq_append]
    exact (play_decSyms hrun ready [c0]).trans (foldl_takeCode_one start c0)
  case second =>
    rw [← places_eq_append]
    exact (play_decSyms hrun ready [c0, c1]).trans (foldl_takeCode_two start c0 c1)
  case third =>
    rw [← places_eq_append_append]
    exact (play_decSyms hrun ready [c0, c1, c2]).trans (foldl_takeCode_three start c0 c1 c2)
  case fourth =>
    rw [← places_eq_append_append]
    exact (play_decSyms hrun ready [c0, c1, c2, c3]).trans (foldl_takeCode_run start c0 c1 c2 c3)
  case cut =>
    obtain ⟨codes, rfl⟩ := exists_codes_of_all_inAlphabet hall
    have before : play s ((codes.map (codeToSymbol Config.sym)).map .decSym) = codes.foldl State.takeCode s :=
      play_decSyms hrun ready codes
    have running : (codes.foldl State.takeCode s).decSt = .run := foldl_takeCode_decSt.trans hrun
    obtain ⟨hst, herr, hcur, hacc, hout⟩ := sameDecoder_play_decSyms_of_outside running outside rest
    rw [List.length_map] at hlen
    rw [List.map_append, play_append, before, hst, herr, hcur, hacc, hout]
    refine ⟨rfl, rfl, ?_, rfl, foldl_takeCode_decOut_of_partial_run (by simp [start]; omega)⟩
    rw [State.raiseDec_decCur, foldl_takeCode_decCur, start, List.length_map]
    exact BitVec.zero_add _

/-- Settles O49. -/
theorem encodePassYieldsEnc : Obligations.EncodePassYieldsEnc := fun _ bytes idle =>
  ⟨allAccepted_encPassEvents idle bytes, play_encPassEvents idle bytes⟩

/-- Settles O50: what the events before and after the cut emit is, in that order, `enc` of the bytes. -/
theorem cutShortEncodePassYieldsAPrefix : Obligations.CutShortEncodePassYieldsAPrefix := by
  intro s bytes k idle
  have accepted := allAccepted_encPassEvents idle bytes
  rw [← List.take_append_drop k (encPassEvents bytes), allAccepted_append] at accepted
  obtain ⟨out, hout, hlen⟩ := play_encOut_of_allAccepted accepted.1
  obtain ⟨later, hlater, -⟩ := play_encOut_of_allAccepted accepted.2
  have whole : out ++ later = encodeStream Config.sym bytes := by
    rw [← play_append, List.take_append_drop, play_encPassEvents idle, hout, List.append_assoc] at hlater
    exact (List.append_cancel_left hlater).symm
  rw [hout, ← hlen, ← whole, List.take_left]

/-- Settles O51, by cases on what ends the pass: a whole run, a run cut short, or a value outside the
alphabet. -/
theorem decodePassYieldsDec : Obligations.DecodePassYieldsDec := by
  intro s syms idle ready
  by_cases hall : syms.all (inAlphabet Config.sym) = true
  case pos =>
    have mid := midDecodePass_of_inAlphabet idle ready hall
    rw [play_decPassEvents]
    by_cases whole : syms.length % 4 = 0
    · rw [after_decEnd_of_start mid.running (mid.cursor_eq_zero_iff.mpr whole),
        decodeStream_snd_of_inAlphabet hall whole]
      exact ⟨mid.bytes, rfl⟩
    · rw [after_decEnd_of_partial_run mid.running (mt mid.cursor_eq_zero_iff.mp whole),
        decodeStream_snd_of_partial_run hall whole]
      exact ⟨mid.bytes, rfl⟩
  case neg =>
    obtain ⟨good, x, rest, rfl, hgood, outside⟩ := exists_first_outside hall
    obtain ⟨hst, herr, -, hout, -⟩ := outsideSymbolEndsThePass s good rest x idle ready hgood outside
    rw [decodeStream_of_outside outside, hout, decodeStream_fst_take_runs, ← herr]
    exact ⟨rfl, passResult_of_fail hst⟩

/-- Settles O52: either event raises its error in the state the symbols have led to. -/
theorem cutShortDecodePassYieldsCompleteRuns : Obligations.CutShortDecodePassYieldsCompleteRuns := by
  intro s syms idle ready hall i k event
  have mid := midDecodePass_of_inAlphabet idle ready hall
  have raised : after (play s (.decStart :: syms.map .decSym)) i =
      (play s (.decStart :: syms.map .decSym)).raise .dec k := by
    rcases event with ⟨rfl, rfl⟩ | ⟨rfl, rfl⟩
    · exact after_of_enabled (enabled_decBad_iff.mpr mid.running)
    · exact after_of_enabled (enabled_decIofail_iff.mpr mid.running)
  rw [List.singleton_append, play_append, play_cons, play_nil, raised]
  exact ⟨rfl, mid.bytes_of_runs, mid.length_bytes hall⟩

/-- Settles O60: `dec` undoes `enc`, and whatever it takes with success is `enc` of its result, hence well
formed. -/
theorem codecIsABijection : Obligations.CodecIsABijection := by
  refine fun w t ht => ⟨fun a b h => encodeStream_injective ht h, fun syms wf => ?_,
    fun syms out => encodeStream_of_decodeStream, fun syms bad => ?_⟩
  · obtain ⟨hall, whole⟩ := wellFormedStream_iff.mp wf
    refine ⟨_, encodeStream_of_decodeStream (Prod.ext rfl ?_), rfl⟩
    exact decodeStream_snd_of_inAlphabet hall whole
  · refine (decodeStream_snd_cases syms).resolve_left fun ok => ?_
    have wf := wellFormedStream_encodeStream ht (decodeStream t syms).1
    rw [encodeStream_of_decodeStream (Prod.ext rfl ok), bad] at wf
    cases wf

end Sys2Proof.Machine
end

section
/-! SUPPORT. When an event happens (spec/41_encoder.md R115, spec/42_decoder.md R135), the symbol-to-code
look-up (spec/40_symbolmap.md R102, R104) and the level outputs (spec/10_state.md R36). -/

namespace Sys2Proof.Machine

/-! An event of a unit always changes it: its status, its cursor, or whether it holds a byte. -/

section Happens
variable {s t : State} {i : Instr}

theorem cursor_add_one_ne (k : Code) : k + 1 ≠ k := by revert k; decide

theorem EncEvent.ne (ev : EncEvent s i t) : t ≠ s := by
  intro h
  cases ev with
  | start idle => exact idle (congrArg State.encSt h).symm
  | put b hrun free => simpa [free] using congrArg State.encVld h
  | emit => exact cursor_add_one_ne _ (congrArg State.encCur h)
  | finish hrun => simpa [hrun] using congrArg State.encSt h
  | fail hrun => simpa [hrun] using congrArg State.encSt h

theorem DecEvent.ne (ev : DecEvent s i t) : t ≠ s := by
  intro h
  cases ev with
  | start idle => exact idle (congrArg State.decSt h).symm
  | @take x c => exact cursor_add_one_ne _ ((s.takeCode_decCur c).symm.trans (congrArg State.decCur h))
  | finish hrun => simpa [hrun] using congrArg State.decSt h
  | fail row hrun => simpa [hrun] using congrArg State.decSt h

theorem exec_ne_next_iff (hi : unitOf i ≠ none) : exec i s ≠ .next s ↔ enabled i s = true := by
  rw [ne_eq, exec_next_iff]
  constructor
  · exact fun changed => Bool.eq_true_of_not_eq_false fun off => changed (after_of_not_enabled off).symm
  · intro on
    match hu : unitOf i with
    | some .enc => exact (encEvent_of_enabled s i hu on).ne.symm
    | some .dec => exact (decEvent_of_enabled s i hu on).ne.symm
    | none => exact absurd hu hi

end Happens

/-- Settles O39: to change the state is to be enabled, and when that is, the tables say. -/
theorem eventsHappenExactlyWhenEnabled : Obligations.EventsHappenExactlyWhenEnabled :=
  ⟨fun _ _ => (exec_ne_next_iff (by nofun)).trans enabled_encPut_iff,
    fun _ => (exec_ne_next_iff (by nofun)).trans enabled_encEmit_iff,
    fun _ => (exec_ne_next_iff (by nofun)).trans enabled_encEnd_iff,
    fun _ => (exec_ne_next_iff (by nofun)).trans enabled_encIofail_iff,
    fun _ => (exec_ne_next_iff (by nofun)).trans enabled_encStart_iff,
    fun _ _ => (exec_ne_next_iff (by nofun)).trans enabled_decSym_iff,
    fun _ => (exec_ne_next_iff (by nofun)).trans enabled_decEnd_iff,
    fun _ => (exec_ne_next_iff (by nofun)).trans enabled_decBad_iff,
    fun _ => (exec_ne_next_iff (by nofun)).trans enabled_decIofail_iff,
    fun _ => (exec_ne_next_iff (by nofun)).trans enabled_decStart_iff⟩

/-- Settles O11: the code of the build's own symbol is found, and a value that is no symbol has none. -/
theorem symbolLookUpAnswersTheCode : Obligations.SymbolLookUpAnswersTheCode := by
  refine ⟨fun c s => ?hit, fun x s outside => ?miss⟩
  case hit =>
    rw [exec_of_enabled (enabled_lutS2c _ s), effect, symbolToCode_codeToSymbol Config.sym_wellFormed]
    rfl
  case miss =>
    rw [exec_of_enabled (enabled_lutS2c x s), effect, symbolToCode_eq_none_iff.mpr outside]
    rfl

/-- Settles O25: each output compares the status with the one it names. -/
theorem levelOutputsFollowTheStatus : Obligations.LevelOutputsFollowTheStatus := fun _ =>
  ⟨beq_iff_eq, beq_iff_eq, beq_iff_eq, beq_iff_eq⟩

end Sys2Proof.Machine
end
